-- ==== Sys2Proof/Word.lean ====
section
/-! DEFINITION. The words of the framer: transport words, port indices, the PinMap's shape. -/

namespace Sys2Proof

/-- One transport word (physical word), one command or data byte: `WORD_W` = 8 (R6). -/
abbrev Byte := BitVec 8

/-- One half of a byte (glossary "Nibble"). -/
abbrev Nibble := BitVec 4

/-- A command word, `{op, a0, a1, a2}` (R95). -/
abbrev CmdWord := BitVec 28

/-- A delay duration in microseconds: `DELAY_W` = 16 (R6, R12). -/
abbrev Micros := BitVec 16

/-- A device address on the two-wire bus: `DEV_ADDR_W` = 7 (R6, R33). -/
abbrev DevAddr := BitVec 7

/-- A physical port index, `P0` to `P7` (R6 `NPORTS`). -/
abbrev Port := Fin 8

/-- The PinMap `PM[0..7]`: slot `i` holds the port of the role whose slot is `i` (R30). -/
abbrev PinMap := Vector Port 8

/-- The slots of R30, equal to the bit positions of the logical word (R90). -/
abbrev slotBL : Fin 8 := 0
abbrev slotD4 : Fin 8 := 1
abbrev slotD5 : Fin 8 := 2
abbrev slotD6 : Fin 8 := 3
abbrev slotD7 : Fin 8 := 4
abbrev slotE  : Fin 8 := 5
abbrev slotRW : Fin 8 := 6
abbrev slotRS : Fin 8 := 7

end Sys2Proof
end

