-- ==== Sys2Proof/Config.lean ====
section
/-! DEFINITION. The implementation parameters of R7 and R8, this hardware's values, and the free values. -/

namespace Sys2Proof

/-- `RD_SAMPLE` (R8, R184): where the transport read stands relative to the enable pulse. -/
inductive RdSample where
  | duringEnable
  | afterPulse
  deriving DecidableEq, Repr

/-- The parameters a model carries as configuration (R7, R8). One instance of the hardware fixes them;
no step writes them, so a statement about every state is a statement about every value of them. -/
structure Params where
  tPowerOn    : Micros
  tProbe1     : Micros
  tProbe2     : Micros
  tProbe3     : Micros
  tPulse      : Micros
  tSettle     : Micros
  tClear      : Micros
  bfFullCycle : Bool
  rdSample    : RdSample
  blReset     : Bool
  deriving DecidableEq, Repr

/-- The source constraints of R7, "normative for every instantiation". -/
def Params.legal (p : Params) : Bool :=
  decide (p.tProbe2 < p.tProbe1) && decide (p.tProbe3 < p.tProbe2) && decide (0#16 < p.tProbe3) &&
  decide (0#16 < p.tPulse) && decide (p.tPulse < 1000#16) && decide (0#16 < p.tSettle) &&
  decide (p.tSettle < p.tClear) && decide (10000#16 ≤ p.tPowerOn)

namespace Config

/-- This hardware's values (R7, R8). -/
def hardware : Params where
  tPowerOn    := 45000#16
  tProbe1     := 4500#16
  tProbe2     := 150#16
  tProbe3     := 50#16
  tPulse      := 1#16
  tSettle     := 50#16
  tClear      := 2000#16
  bfFullCycle := true
  rdSample    := .duringEnable
  blReset     := false

/-- FREE VALUE (log 7; R65, U12): does the `n`-th open transport call fail? -/
opaque freeFail : Nat → Bool

/-- FREE VALUE (log 7; R65, U11): the byte the `n`-th open transport call returns. -/
opaque freeByte : Nat → Byte

/-- FREE VALUE (log 10; R60): did the `n`-th failed or abandoned write change the expander's latch? -/
opaque freeLanded : Nat → Bool

/-- FREE VALUE (log 11; R208, U1): the five shadow display flags after the `n`-th failed INIT. -/
opaque freeShadow : Nat → BitVec 5

/-- FREE VALUE (log 33; R279): the bytes the layer sends for the `n`-th glyph pattern that has not the
font's 8 or 10 bytes. -/
opaque freeGlyph : Nat → List Byte

/-- FREE VALUES (log 29; R55 and R56 give these outputs no level then): `tp_read` while no transport call is
outstanding, `tp_wdata` while no write is, `dl_us` while no wait is. -/
opaque freeTpRead : Nat → Bool
opaque freeTpWdata : Nat → Byte
opaque freeDlUs : Nat → Micros

/-- What the expander's latch holds where nothing was written since power-on: all pins high
(PRESUMED, log 12; the spec's G10; N14 says the source gives no value). -/
def latchAtPowerOn : Byte := 0xFF#8

end Config

end Sys2Proof
end

