-- ==== Sys2Proof/Syntax.lean ====
section
/-! DEFINITION. The instructions: one constructor per row of spec/opcode_table.json. -/

namespace Sys2Proof

/-- The rows of the opcode table (R96, R100, R106). A `CMDPORT` row carries all three argument bytes of
its command word, the ignored ones too (R96 "any value is legal"). -/
inductive Instr where
  /-- INIT: columns, rows, bit 0 of the last byte the requested font (R201). -/
  | init (cols rows font : Byte)
  /-- CMD: one byte to the controller's instruction register (R181). -/
  | cmd (byte a1 a2 : Byte)
  /-- DATA: one byte to the controller's data register (R182). -/
  | data (byte a1 a2 : Byte)
  /-- BACKLIGHT: bit 0 of the first byte is on (R263). -/
  | backlight (on a1 a2 : Byte)
  /-- RDBF: read the busy flag (R234). -/
  | rdbf (a0 a1 a2 : Byte)
  /-- RDAC: read the address counter (R236). -/
  | rdac (a0 a1 a2 : Byte)
  /-- K_PROBE: the sequencer's 8-bit-mode probe nibble; `x` is not sent (R100, R204 steps 1 to 3). -/
  | kProbe (x : Nibble)
  /-- K_SWITCH4: the sequencer's switch-to-4-bit nibble; `x` is not sent (R100, R204 step 4). -/
  | kSwitch4 (x : Nibble)
  /-- K_FUNCSET: the sequencer's function set byte (R100, R205, R204 step 5). -/
  | kFuncset (n f : Bool)
  /-- K_DISPLAY_OFF (R100, R204 step 6). -/
  | kDisplayOff
  /-- K_CLEAR (R100, R204 step 7). -/
  | kClear
  /-- K_ENTRY_LTR (R100, R204 step 8). -/
  | kEntryLtr
  /-- K_DISPLAY_ON (R100, R204 step 9). -/
  | kDisplayOn
  /-- CLEAR, of the pseudo-operation layer (R272). -/
  | clear
  /-- HOME, of the pseudo-operation layer (R273). -/
  | home
  /-- SETDDRAM: set the DDRAM address (R275). -/
  | setddram (addr : BitVec 7)
  /-- DISPLAYCTL: display, cursor, blink (R276). -/
  | displayctl (d c b : Bool)
  /-- ENTRYMODE: left-to-right, autoscroll (R277). -/
  | entrymode (i s : Bool)
  /-- SHIFT: scroll the display, right when `r` (R278). -/
  | shift (r : Bool)
  /-- SETCGRAM: set the CGRAM address (R279). -/
  | setcgram (addr : BitVec 6)
  deriving DecidableEq, Repr

end Sys2Proof
end

