-- ==== Sys2Proof/WellFormed.lean ====
section
/-! DEFINITION. Which instructions some rule of the spec forms. -/

namespace Sys2Proof

/-- An instruction is well-formed when some rule of the spec forms it. Two operand patterns of the table
are formed by none: the function set byte 0x2C (R100 "and 0x2C never occurs", U3), and a CGRAM address
that is no multiple of a glyph's 8 bytes (R279: `slot' << 3` or `slot' << 4`). Every instruction has its
meaning all the same; the predicate is a premise, not a gate (log 26). -/
def Instr.wf : Instr → Bool
  | .init _ _ _ => true
  | .cmd _ _ _ => true
  | .data _ _ _ => true
  | .backlight _ _ _ => true
  | .rdbf _ _ _ => true
  | .rdac _ _ _ => true
  | .kProbe _ => true
  | .kSwitch4 _ => true
  | .kFuncset n f => !(n && f)
  | .kDisplayOff => true
  | .kClear => true
  | .kEntryLtr => true
  | .kDisplayOn => true
  | .clear => true
  | .home => true
  | .setddram _ => true
  | .displayctl _ _ _ => true
  | .entrymode _ _ => true
  | .shift _ => true
  | .setcgram a => a.extractLsb' 0 3 == 0#3

end Sys2Proof
end

