-- ==== Sys2Proof/Decode.lean ====
section
/-! DEFINITION. Decoding, total and rejecting by name, and the encoder. -/

namespace Sys2Proof

/-- What the machine fetches, with the place it comes from, which is part of how a word is read: a
command word on the command port (R53, R95); a byte of the Initialization Sequencer with its transfer
length `LEN` (R100: the column `LEN` tells 0x20 the switch nibble from 0x20 the function set byte); a
controller command byte of the pseudo-operation layer (R105). -/
inductive Fetched where
  | port (w : CmdWord)
  | sequencer (len : Bool) (v : Byte)
  | layer (v : Byte)
  deriving DecidableEq, Repr

/-- Why a fetched word is no instruction. -/
inductive DecodeError where
  /-- A reserved opcode, 0x0 or 0x7 to 0xF (R98). -/
  | reservedOpcode (op : BitVec 4)
  /-- No row of the table sends this byte from this place (R100, R106). -/
  | noRow (v : Byte)
  deriving DecidableEq, Repr

/-- The fields of a command word (R95). -/
def cmdOp (w : CmdWord) : BitVec 4 := w.extractLsb' 24 4
def cmdA0 (w : CmdWord) : Byte := w.extractLsb' 16 8
def cmdA1 (w : CmdWord) : Byte := w.extractLsb' 8 8
def cmdA2 (w : CmdWord) : Byte := w.extractLsb' 0 8

/-- A command word from its fields (R95). -/
def cmdWord (op : BitVec 4) (a0 a1 a2 : Byte) : CmdWord := op ++ a0 ++ a1 ++ a2

/-- The opcodes of R96. -/
def opInit : BitVec 4 := 0x1#4
def opCmd : BitVec 4 := 0x2#4
def opData : BitVec 4 := 0x3#4
def opBacklight : BitVec 4 := 0x4#4
def opRdbf : BitVec 4 := 0x5#4
def opRdac : BitVec 4 := 0x6#4

/-- The command port: R96, with R98 for what no row matches. -/
def decodePort (w : CmdWord) : Except DecodeError Instr :=
  if cmdOp w = opInit then .ok (.init (cmdA0 w) (cmdA1 w) (cmdA2 w))
  else if cmdOp w = opCmd then .ok (.cmd (cmdA0 w) (cmdA1 w) (cmdA2 w))
  else if cmdOp w = opData then .ok (.data (cmdA0 w) (cmdA1 w) (cmdA2 w))
  else if cmdOp w = opBacklight then .ok (.backlight (cmdA0 w) (cmdA1 w) (cmdA2 w))
  else if cmdOp w = opRdbf then .ok (.rdbf (cmdA0 w) (cmdA1 w) (cmdA2 w))
  else if cmdOp w = opRdac then .ok (.rdac (cmdA0 w) (cmdA1 w) (cmdA2 w))
  else .error (.reservedOpcode (cmdOp w))

/-- The sequencer's single nibbles, `LEN` = 0: only bits 7:4 are sent (R100). -/
def decodeSequencerNibble (v : Byte) : Except DecodeError Instr :=
  if v.extractLsb' 4 4 = 0x3#4 then .ok (.kProbe (v.extractLsb' 0 4))
  else if v.extractLsb' 4 4 = 0x2#4 then .ok (.kSwitch4 (v.extractLsb' 0 4))
  else .error (.noRow v)

/-- The sequencer's full bytes, `LEN` = 1 (R100). -/
def decodeSequencerByte (v : Byte) : Except DecodeError Instr :=
  if v = 0x08#8 then .ok .kDisplayOff
  else if v = 0x01#8 then .ok .kClear
  else if v = 0x06#8 then .ok .kEntryLtr
  else if v = 0x0C#8 then .ok .kDisplayOn
  else if v &&& 0xF3#8 = 0x20#8 then .ok (.kFuncset (v.getLsbD 3) (v.getLsbD 2))
  else .error (.noRow v)

/-- The layer's command bytes, told apart by their highest 1 bit (R272 to R279). -/
def decodeLayer (v : Byte) : Except DecodeError Instr :=
  if v.getLsbD 7 then .ok (.setddram (v.extractLsb' 0 7))
  else if v.getLsbD 6 then .ok (.setcgram (v.extractLsb' 0 6))
  else if v &&& 0xFB#8 = 0x18#8 then .ok (.shift (v.getLsbD 2))
  else if v &&& 0xF8#8 = 0x08#8 then .ok (.displayctl (v.getLsbD 2) (v.getLsbD 1) (v.getLsbD 0))
  else if v &&& 0xFC#8 = 0x04#8 then .ok (.entrymode (v.getLsbD 1) (v.getLsbD 0))
  else if v = 0x02#8 then .ok .home
  else if v = 0x01#8 then .ok .clear
  else .error (.noRow v)

/-- The decoder. -/
def decode : Fetched → Except DecodeError Instr
  | .port w => decodePort w
  | .sequencer false v => decodeSequencerNibble v
  | .sequencer true v => decodeSequencerByte v
  | .layer v => decodeLayer v

/-- The place an 8-bit table word is read from when nothing but its bits is known (log 3): the row with
the most fixed bits that matches it, so the sequencer's full bytes, then its nibbles, then the layer. -/
def placeOfByte (v : Byte) : Fetched :=
  match decodeSequencerByte v with
  | .ok _ => .sequencer true v
  | .error _ =>
    match decodeSequencerNibble v with
    | .ok _ => .sequencer false v
    | .error _ => .layer v

/-- A word numbered as spec/opcode_table.json numbers it, as the machine fetches it: the 8-bit rows are
bytes, the 28-bit rows command words; a word with a bit above 27 is neither. -/
def fetchedOfTableWord (nbits w : Nat) : Option Fetched :=
  if nbits ≤ 8 then
    if w < 256 then some (placeOfByte (BitVec.ofNat 8 w)) else none
  else if w < 2 ^ 28 then some (.port (BitVec.ofNat 28 w))
  else none

/-- The instruction the decoder reads from a word numbered as the table numbers it. -/
def decodeTableWord (nbits w : Nat) : Option Instr :=
  match fetchedOfTableWord nbits w with
  | none => none
  | some f =>
    match decode f with
    | .ok i => some i
    | .error _ => none

/-- The controller command bytes with operands (R100, R275 to R279). -/
def probeByte (x : Nibble) : Byte := 0x3#4 ++ x
def switch4Byte (x : Nibble) : Byte := 0x2#4 ++ x
def funcsetByte (n f : Bool) : Byte := 0x2#4 ++ BitVec.ofBool n ++ BitVec.ofBool f ++ 0#2
def setddramByte (a : BitVec 7) : Byte := 1#1 ++ a
def displayctlByte (d c b : Bool) : Byte := 0x1#5 ++ BitVec.ofBool d ++ BitVec.ofBool c ++ BitVec.ofBool b
def entrymodeByte (i s : Bool) : Byte := 0x1#6 ++ BitVec.ofBool i ++ BitVec.ofBool s
def shiftByte (r : Bool) : Byte := 0x3#5 ++ BitVec.ofBool r ++ 0#2
def setcgramByte (a : BitVec 6) : Byte := 0x1#2 ++ a

/-- The encoder: the word of an instruction and the place it stands, from the tables of R96, R100 and
R272 to R279. -/
def encode : Instr → Fetched
  | .init a0 a1 a2 => .port (cmdWord 0x1#4 a0 a1 a2)
  | .cmd a0 a1 a2 => .port (cmdWord 0x2#4 a0 a1 a2)
  | .data a0 a1 a2 => .port (cmdWord 0x3#4 a0 a1 a2)
  | .backlight a0 a1 a2 => .port (cmdWord 0x4#4 a0 a1 a2)
  | .rdbf a0 a1 a2 => .port (cmdWord 0x5#4 a0 a1 a2)
  | .rdac a0 a1 a2 => .port (cmdWord 0x6#4 a0 a1 a2)
  | .kProbe x => .sequencer false (probeByte x)
  | .kSwitch4 x => .sequencer false (switch4Byte x)
  | .kFuncset n f => .sequencer true (funcsetByte n f)
  | .kDisplayOff => .sequencer true 0x08#8
  | .kClear => .sequencer true 0x01#8
  | .kEntryLtr => .sequencer true 0x06#8
  | .kDisplayOn => .sequencer true 0x0C#8
  | .clear => .layer 0x01#8
  | .home => .layer 0x02#8
  | .setddram a => .layer (setddramByte a)
  | .displayctl d c b => .layer (displayctlByte d c b)
  | .entrymode i s => .layer (entrymodeByte i s)
  | .shift r => .layer (shiftByte r)
  | .setcgram a => .layer (setcgramByte a)

end Sys2Proof
end

