-- ==== Sys2Proof/Machine/State.lean ====
section
/-! DEFINITION. The state, as plain data; what a step can stop with; the state after reset. -/

namespace Sys2Proof.Machine

/-- `TOP` (R34). -/
inductive Top where
  | idle
  | busy
  deriving DecidableEq, Repr

/-- `NPD`, the state of the Nibble Protocol Driver (R36). The encoding's value 7 is never taken. -/
inductive Npd where
  | done
  | assembleHigh
  | sampleHigh
  | pulseHigh
  | assembleLow
  | sampleLow
  | pulseLow
  deriving DecidableEq, Repr

/-- `BL_POL`, the BacklightPolarity (R32). -/
inductive Polarity where
  | activeHigh
  | activeLow
  deriving DecidableEq, Repr

/-- `STATUS` (R301). -/
inductive Status where
  | ok
  | configError
  | transportError
  | illegalOp
  deriving DecidableEq, Repr

/-- The one request the framer holds out to a collaborator (R55, R56, R78 "one request outstanding"):
what `tp_valid`, `tp_read`, `dl_valid` and `dl_us` show. -/
inductive Request where
  | none
  | write
  | read
  | delay (us : Micros)
  deriving DecidableEq, Repr

/-- An event of the output trace (R13): `W(w)`, `R`, `D(n)`, `RSP(status, data)`. -/
inductive Event where
  | write (w : Byte)
  | read
  | delay (us : Micros)
  | rsp (status : Status) (data : Byte)
  deriving DecidableEq, Repr

/-- The transport collaborator's answer to one call (R55, R64): `ok` (the byte counts for a read only),
`fail`, or no answer ever. -/
inductive TpAnswer where
  | ok (b : Byte)
  | fail
  | never
  deriving DecidableEq, Repr

/-- The delay collaborator's answer to one wait (R56, R64, U10): it ends, or it never does. -/
inductive DlAnswer where
  | done
  | never
  deriving DecidableEq, Repr

/-- What the controller's interface is known to be (R47): nothing, 8-bit, or 4-bit with the half of a
byte it expects next. State of the world outside the framer (log 13), kept as if the declared wiring
were the real one (log 32). -/
inductive Controller where
  | unknown
  | eightBit
  | expectsHigh
  | expectsLow
  deriving DecidableEq, Repr

/-- A call of the pseudo-operation layer, with its arguments as R105 writes them. -/
inductive LayerCall where
  | clear
  | home
  | setCursor (col row : Byte)
  | display (on : Bool)
  | cursor (on : Bool)
  | blink (on : Bool)
  | entryDir (ltr : Bool)
  | autoscroll (on : Bool)
  | scroll (right : Bool)
  | loadGlyph (slot : Byte) (pattern : List Byte)
  | barGraph
  deriving DecidableEq, Repr

/-- What the layer does outwards: the framer operations it issues, and its own waits (R272). -/
inductive LayerEvent where
  | issue (w : CmdWord)
  | wait (us : Nat)
  deriving DecidableEq, Repr

/-- One input from the host. -/
inductive HostEvent where
  /-- A word to fetch: a command word on the command channel (R53), or a byte of the table's other rows. -/
  | fetch (f : Fetched)
  /-- A call of the pseudo-operation layer (R270). -/
  | call (c : LayerCall)
  /-- The host lets at least `us` microseconds pass (R351). -/
  | wait (us : Nat)
  /-- `rst`, released with these configuration inputs (R52, R340): `cfg_decl`, `cfg_pol`, `cfg_addr`. -/
  | reset (decl : BitVec 32) (pol : Bool) (addr : DevAddr)
  /-- The display loses its power and has it again (R329, R360). The framer cannot sense it. -/
  | powerLoss
  deriving DecidableEq, Repr

/-- The expander ports on the bus: the output latch of the device at each address, as cells in one
canonical form (`Memory.wf`): addresses strictly rising, none equal to what an unlisted address holds. -/
abbrev Memory := List Host.Cell

/-- The whole state: R20's list, the ports that hold a level, and the world the framer is seen through. -/
@[ext]
structure State where
  /-- The parameters of R7 and R8. -/
  prm        : Params
  /-- `PM[0..7]` (R30). -/
  pm         : PinMap
  /-- `MAP_VALID` (R31). -/
  mapValid   : Bool
  /-- `BL_POL` (R32). -/
  blPol      : Polarity
  /-- `DEV_ADDR` (R33). -/
  devAddr    : DevAddr
  /-- `OP` (R21). -/
  op         : BitVec 4
  /-- `A0`, `A1`, `A2` (R21). -/
  a0         : Byte
  a1         : Byte
  a2         : Byte
  /-- `VAL`, `RS`, `RW`, `LEN` (R22). -/
  val        : Byte
  rs         : Bool
  rw         : Bool
  len        : Bool
  /-- `WORD` (R23). -/
  word       : Byte
  /-- `RD_HI`, `RD_LO` (R24). -/
  rdHi       : Byte
  rdLo       : Byte
  /-- `STATUS`, `RDATA` (R25). -/
  status     : Status
  rdata      : Byte
  /-- `COLS`, `ROWS`, `FONT` (R26); `font` is true for the 5x10 font. -/
  cols       : Byte
  rows       : Byte
  font       : Bool
  /-- The shadow display flags (R27). -/
  dispOn     : Bool
  curOn      : Bool
  blinkOn    : Bool
  entryLtr   : Bool
  autoscroll : Bool
  /-- `BL_ON` (R42). -/
  blOn       : Bool
  /-- `INIT_OK` (R41). -/
  initOk     : Bool
  /-- `TOP` (R34). -/
  top        : Top
  /-- `SEQ` (R35). -/
  seq        : BitVec 4
  /-- `NPD` (R36). -/
  npd        : Npd
  /-- `rsp_valid` (R54). -/
  rspValid   : Bool
  /-- The outstanding request (R55, R56). -/
  req        : Request
  /-- The expander's output latch (R48, R60), under the key `DEV_ADDR`. -/
  bus        : Memory
  /-- The controller's interface (R47). -/
  ctl        : Controller
  /-- Inputs still to come: from the host, the transport, the delay collaborator. -/
  hostIn     : List HostEvent
  tpIn       : List TpAnswer
  dlIn       : List DlAnswer
  /-- The output trace, oldest first (R13). -/
  trace      : List Event
  /-- What the pseudo-operation layer issued and waited, oldest first. -/
  layerOut   : List LayerEvent
  /-- The counter of the free values: the model's own field. -/
  free       : Nat
  deriving DecidableEq, Repr

/-- Why the machine stops. -/
inductive Fault where
  /-- A step from `TOP = BUSY` with a transport call that is never answered: the framer waits for ever
  (R64 "a stuck state"). Raised by `step` alone; SAFE. -/
  | transportSilent
  /-- The same for a wait that never ends (R361, U10). Raised by `step` alone; SAFE. -/
  | delaySilent
  deriving DecidableEq, Repr

/-- What the machine does not give a meaning. -/
inductive Refusal where
  /-- An instruction with no meaning yet: raised by a refused arm of `exec`. There is none. SAFE. -/
  | notModelled (mnemonic : String)
  /-- A byte that is no row of the table, fetched from the sequencer's place or the layer's; raised by
  `step`. SAFE. -/
  | noRow (v : Byte)
  /-- SETCURSOR clamped to a row of 4 or more: "nothing is defined; a model should refuse it" (R275);
  raised by the layer's call. SAFE. -/
  | rowUndefined (row : Byte)
  /-- BARGRAPH: "A model must refuse it" (R280); raised by the layer's call. SAFE. -/
  | barGraph
  deriving DecidableEq, Repr

/-- The machine right after reset with the configuration inputs of program P1 of 95_test_vectors.md
(log 4). R58 gives MAP_VALID, BL_ON, INIT_OK, TOP, SEQ, NPD; every register R58 leaves without a value
holds zero (log 5). -/
def State.reset : State where
  prm        := Config.hardware
  pm         := #v[3, 4, 5, 6, 7, 2, 1, 0]
  mapValid   := true
  blPol      := .activeHigh
  devAddr    := 0x27#7
  op         := 0#4
  a0         := 0#8
  a1         := 0#8
  a2         := 0#8
  val        := 0#8
  rs         := false
  rw         := false
  len        := false
  word       := 0#8
  rdHi       := 0#8
  rdLo       := 0#8
  status     := .ok
  rdata      := 0#8
  cols       := 0#8
  rows       := 0#8
  font       := false
  dispOn     := false
  curOn      := false
  blinkOn    := false
  entryLtr   := false
  autoscroll := false
  blOn       := false
  initOk     := false
  top        := .idle
  seq        := 0#4
  npd        := .done
  rspValid   := false
  req        := .none
  bus        := []
  ctl        := .unknown
  hostIn     := []
  tpIn       := []
  dlIn       := []
  trace      := []
  layerOut   := []
  free       := 0

end Sys2Proof.Machine
end

