-- ==== Sys2Proof/Machine/Operands.lean ====
section
/-! DEFINITION. Operand assembly: relocation through the PinMap, the logical and physical words, the
values read back, the bytes the sequencer sends. -/

namespace Sys2Proof.Machine

/-- The map is a bijection from slots to ports (R136 a); on eight slots and eight ports, injectivity. -/
abbrev PinMap.IsPerm (pm : PinMap) : Prop := ∀ i j : Fin 8, pm[i] = pm[j] → i = j

/-- One bit at one port: `zext_8(b) << p` (R91). -/
def portBit (p : Port) (b : Bool) : Byte := if b then 1#8 <<< p.val else 0#8

/-- `Phys(L)`: the OR over the slots of `zext_8(L[i]) << PM[i]` (R91, R151). -/
def phys (pm : PinMap) (l : Byte) : Byte :=
  portBit pm[0] (l.getLsbD 0) ||| portBit pm[1] (l.getLsbD 1) |||
  portBit pm[2] (l.getLsbD 2) ||| portBit pm[3] (l.getLsbD 3) |||
  portBit pm[4] (l.getLsbD 4) ||| portBit pm[5] (l.getLsbD 5) |||
  portBit pm[6] (l.getLsbD 6) ||| portBit pm[7] (l.getLsbD 7)

/-- The level at the port of a slot: `P[PM[i]]` (R91). -/
def atSlot (pm : PinMap) (p : Byte) (i : Fin 8) : Bool := p.getLsbD pm[i].val

/-- `Log(P)`: `Log(P)[i] = P[PM[i]]` (R91, R151). -/
def log (pm : PinMap) (p : Byte) : Byte :=
  BitVec.ofBool (atSlot pm p 7) ++ BitVec.ofBool (atSlot pm p 6) ++
  BitVec.ofBool (atSlot pm p 5) ++ BitVec.ofBool (atSlot pm p 4) ++
  BitVec.ofBool (atSlot pm p 3) ++ BitVec.ofBool (atSlot pm p 2) ++
  BitVec.ofBool (atSlot pm p 1) ++ BitVec.ofBool (atSlot pm p 0)

/-- The halves of a byte (R68, R94). -/
def highNibble (v : Byte) : Nibble := v.extractLsb' 4 4
def lowNibble (v : Byte) : Nibble := v.extractLsb' 0 4

/-- `LWord(RS, RW, e, n) = {RS, RW, e, n[3..0], 0}` (R94). -/
def lword (rs rw e : Bool) (n : Nibble) : Byte :=
  BitVec.ofBool rs ++ BitVec.ofBool rw ++ BitVec.ofBool e ++ n ++ 0#1

/-- The level `BL_ON ^ BL_POL` on the backlight port (R261), with the encoding of R32. -/
def backlightLevel (s : State) : Bool :=
  match s.blPol with
  | .activeHigh => s.blOn
  | .activeLow => !s.blOn

/-- `BL_MASK` (R261). -/
def blMask (s : State) : Byte := portBit s.pm[slotBL] (backlightLevel s)

/-- `E_MASK = 1 << PM[S_E]` (R39). -/
def eMask (s : State) : Byte := portBit s.pm[slotE] true

/-- `EncWord(RS, RW, e, n) = Phys(LWord(RS, RW, e, n)) | BL_MASK` (R152). -/
def encWord (s : State) (rs rw e : Bool) (n : Nibble) : Byte :=
  phys s.pm (lword rs rw e n) ||| blMask s

/-- The address counter of the two words read: `{Log(RD_HI)[3:1], Log(RD_LO)[4:1]}` (R102). -/
def addressCounter (s : State) : BitVec 7 :=
  BitVec.ofBool (atSlot s.pm s.rdHi slotD6) ++ BitVec.ofBool (atSlot s.pm s.rdHi slotD5) ++
  BitVec.ofBool (atSlot s.pm s.rdHi slotD4) ++
  BitVec.ofBool (atSlot s.pm s.rdLo slotD7) ++ BitVec.ofBool (atSlot s.pm s.rdLo slotD6) ++
  BitVec.ofBool (atSlot s.pm s.rdLo slotD5) ++ BitVec.ofBool (atSlot s.pm s.rdLo slotD4)

/-- The requested font, argument bit `a2[0]` of INIT (R201). -/
def requestedFont (s : State) : Bool := s.a2.getLsbD 0

/-- The effective font (R203): the requested one, forced to 5x8 when there is more than one row. -/
def effectiveFont (requested : Bool) (rows : Byte) : Bool := requested && decide (rows ≤ 1#8)

/-- `N` of the function set byte (R205). -/
def twoLines (rows : Byte) : Bool := decide (1#8 < rows)

/-- One transaction of the Initialization Sequencer (R204): the byte, its transfer length, and the
step's own delay after a completed transfer. -/
structure SeqRow where
  val : Byte
  len : Bool
  own : Option Micros
  deriving DecidableEq, Repr

/-- The delay after a probe, by its place in the sequence (R204 steps 1 to 3). -/
def probeDelay (s : State) : Option Micros :=
  if s.seq = 1#4 then some s.prm.tProbe1
  else if s.seq = 2#4 then some s.prm.tProbe2
  else if s.seq = 3#4 then some s.prm.tProbe3
  else none

def kProbeRow (x : Nibble) (s : State) : SeqRow := ⟨probeByte x, false, probeDelay s⟩
def kSwitch4Row (x : Nibble) : SeqRow := ⟨switch4Byte x, false, none⟩
def kFuncsetRow (n f : Bool) : SeqRow := ⟨funcsetByte n f, true, none⟩
def kDisplayOffRow : SeqRow := ⟨0x08#8, true, none⟩
def kClearRow (s : State) : SeqRow := ⟨0x01#8, true, some s.prm.tClear⟩
def kEntryLtrRow : SeqRow := ⟨0x06#8, true, none⟩
def kDisplayOnRow : SeqRow := ⟨0x0C#8, true, none⟩

/-- The sequencer's table at `SEQ` (R204, R205). Steps 0 and 10 make no transfer. -/
def seqRow (s : State) : Option SeqRow :=
  match s.seq.toNat with
  | 1 => some (kProbeRow 0#4 s)
  | 2 => some (kProbeRow 0#4 s)
  | 3 => some (kProbeRow 0#4 s)
  | 4 => some (kSwitch4Row 0#4)
  | 5 => some (kFuncsetRow (twoLines s.rows) s.font)
  | 6 => some kDisplayOffRow
  | 7 => some (kClearRow s)
  | 8 => some kEntryLtrRow
  | 9 => some kDisplayOnRow
  | _ => none

/-- Clamping an index to a count (R274), with the count 0 giving 0 (D29). -/
def clampIndex (i count : Byte) : Byte :=
  if count = 0#8 then 0#8 else if count ≤ i then count - 1#8 else i

/-- `ROW_BASE[row]` for rows 0 to 3 (R275). -/
def rowBase (cols row : Byte) : Option Byte :=
  match row.toNat with
  | 0 => some 0x00#8
  | 1 => some 0x40#8
  | 2 => some cols
  | 3 => some (0x40#8 + cols)
  | _ => none

/-- The DDRAM address `(ROW_BASE[row'] + col') & 0x7F` of a clamped position (R275). -/
def ddramAddress (cols col row : Byte) : Option (BitVec 7) :=
  (rowBase cols row).map fun b => (b + col).extractLsb' 0 7

/-- The bytes of a glyph and the last slot, by font (R279). -/
def glyphBytes (font : Bool) : Nat := if font then 10 else 8
def glyphLastSlot (font : Bool) : Byte := if font then 3#8 else 7#8

/-- The CGRAM address of a clamped slot: `slot' << 3` or `slot' << 4` (R279). -/
def cgramAddress (font : Bool) (slot : Byte) : BitVec 6 :=
  let slot' := if slot ≤ glyphLastSlot font then slot else glyphLastSlot font
  (if font then slot' <<< 4 else slot' <<< 3).extractLsb' 0 6

end Sys2Proof.Machine
end

