-- ==== Sys2Proof/Machine/Flags.lean ====
section
/-! DEFINITION. The codes of the state registers and every flag computation. -/

namespace Sys2Proof.Machine

/-- The code of `TOP` (R34). -/
def Top.code : Top → BitVec 1
  | .idle => 0#1
  | .busy => 1#1

/-- The code of `NPD` (R36). -/
def Npd.code : Npd → BitVec 3
  | .done => 0#3
  | .assembleHigh => 1#3
  | .sampleHigh => 2#3
  | .pulseHigh => 3#3
  | .assembleLow => 4#3
  | .sampleLow => 5#3
  | .pulseLow => 6#3

/-- The code of `STATUS` (R301). -/
def Status.code : Status → BitVec 2
  | .ok => 0#2
  | .configError => 1#2
  | .transportError => 2#2
  | .illegalOp => 3#2

/-- `cfg_pol` to `BL_POL` (R93): 0 is ACTIVE-HIGH, 1 is ACTIVE-LOW. -/
def Polarity.ofBit : Bool → Polarity
  | false => .activeHigh
  | true => .activeLow

/-- `BF`: the D7 line of the first word read (R103). -/
def busyFlag (s : State) : Bool := atSlot s.pm s.rdHi slotD7

/-- The usability conditions of R320. -/
inductive Condition where
  | unusable
  | uninitialised
  | ready
  deriving DecidableEq, Repr

/-- The condition told by `MAP_VALID` and `INIT_OK` (R320). -/
def condition (s : State) : Condition :=
  if s.mapValid then (if s.initOk then .ready else .uninitialised) else .unusable

/-- `SEQ <- SEQ + 1`; "step 10 is the last" and 11 to 15 are never taken (R35, R104). -/
def nextSeq (q : BitVec 4) : BitVec 4 := if q < 10#4 then q + 1#4 else q

/-- The flags INIT writes at its start (R202, R203): `INIT_OK` cleared, the geometry stored, `SEQ` at the
first step. What is known of the controller's interface is given up, since the probes change it (log 13). -/
def initStart (s : State) : State :=
  { s with
    initOk := false
    cols := s.a0
    rows := s.a1
    font := effectiveFont (requestedFont s) s.a1
    seq := 0#4
    ctl := .unknown }

/-- The flags INIT writes at its end (R211). -/
def initFlags (s : State) : State :=
  { s with
    initOk := true
    dispOn := true
    curOn := false
    blinkOn := false
    entryLtr := true
    autoscroll := false }

/-- The shadow flags of the display control byte (R27, R276). -/
def displayFlags (d c b : Bool) (s : State) : State :=
  { s with dispOn := d, curOn := c, blinkOn := b }

/-- The shadow flags of the entry mode byte (R27, R277). -/
def entryFlags (ltr auto : Bool) (s : State) : State :=
  { s with entryLtr := ltr, autoscroll := auto }

/-- The flags after a failed INIT (R208): `INIT_OK` is 0, the shadow display flags have no value (free,
log 11), and nothing is known of the controller (U1). -/
def initFailedFlags (s : State) : State :=
  { s with
    initOk := false
    dispOn := (Config.freeShadow s.free).getLsbD 0
    curOn := (Config.freeShadow s.free).getLsbD 1
    blinkOn := (Config.freeShadow s.free).getLsbD 2
    entryLtr := (Config.freeShadow s.free).getLsbD 3
    autoscroll := (Config.freeShadow s.free).getLsbD 4
    ctl := .unknown
    free := s.free + 1 }

/-- What a sequencer step that completed says of the controller (R206): after the third probe it is in
8-bit mode, after the switch nibble in 4-bit mode and expecting a high nibble. -/
def seqEffect (s : State) : State :=
  if s.seq = 3#4 then { s with ctl := .eightBit }
  else if s.seq = 4#4 then { s with ctl := .expectsHigh }
  else s

/-- A nibble latched by a controller in 4-bit mode turns the half it expects next (R72). -/
def Controller.latch : Controller → Controller
  | .unknown => .unknown
  | .eightBit => .eightBit
  | .expectsHigh => .expectsLow
  | .expectsLow => .expectsHigh

/-- The enable line falls between two words (R66): the edge the controller latches on, at the port the map
declares for it (log 32). -/
def enableFalls (pm : PinMap) (before after : Byte) : Bool :=
  atSlot pm before slotE && !atSlot pm after slotE

end Sys2Proof.Machine
end

