-- ==== Sys2Proof/Machine/Memory.lean ====
section
/-! DEFINITION. The one memory there is: the output latches of the expanders on the bus. -/

namespace Sys2Proof.Machine

/-- What the latch of the device at `a` holds; unlisted, what it held at power-on (log 12). -/
def Memory.read : Memory → Nat → Byte
  | [], _ => Config.latchAtPowerOn
  | (k, v) :: m, a => if k = a then v else Memory.read m a

/-- `MemWrite(a, 1, v)` (R11, R60), keeping the canonical form. -/
def Memory.write : Memory → Nat → Byte → Memory
  | [], a, v => if v = Config.latchAtPowerOn then [] else [(a, v)]
  | (k, x) :: m, a, v =>
    if a < k then
      (if v = Config.latchAtPowerOn then (k, x) :: m else (a, v) :: (k, x) :: m)
    else if a = k then
      (if v = Config.latchAtPowerOn then m else (a, v) :: m)
    else (k, x) :: Memory.write m a v

/-- The canonical form from a lower bound on: addresses rise strictly, no cell holds the power-on value. -/
def Memory.wfFrom : Nat → Memory → Bool
  | _, [] => true
  | lo, (k, v) :: m => decide (lo ≤ k) && (v != Config.latchAtPowerOn) && Memory.wfFrom (k + 1) m

/-- The canonical form. -/
def Memory.wf (m : Memory) : Bool := Memory.wfFrom 0 m

end Sys2Proof.Machine
end

