-- ==== Sys2Proof/Machine/Ops.lean ====
section
/-! DEFINITION. The named operations: accepting a command, the transport and the delay, the response,
raising an error, the Nibble Protocol Driver's transfer. -/

namespace Sys2Proof.Machine

/-- How a piece of an operation ended: it completed; a transport call was answered `fail`; or a
collaborator never answers, and the state is the one the framer waits in for ever (R64). -/
inductive Flow where
  | going (s : State)
  | aborted (s : State)
  | waiting (s : State)
  deriving DecidableEq, Repr

/-- Going on only after completion. -/
def Flow.andThen : Flow → (State → Flow) → Flow
  | .going s, k => k s
  | .aborted s, _ => .aborted s
  | .waiting s, _ => .waiting s

/-- The state an operation leaves: where it got to, or what `onAbort` makes of a failed call. -/
def Flow.settle (onAbort : State → State) : Flow → State
  | .going s => s
  | .aborted s => onAbort s
  | .waiting s => s

/-! ### The transport (R11, R60, R61, R65) -/

/-- The answer to the next transport call: the next one of the script, else the oracle's (log 7). -/
def transportAnswer (s : State) : TpAnswer :=
  match s.tpIn with
  | a :: _ => a
  | [] => if Config.freeFail s.free then .fail else .ok (Config.freeByte s.free)

/-- The answer is used up. -/
def takeAnswer (s : State) : State :=
  match s.tpIn with
  | _ :: r => { s with tpIn := r }
  | [] => { s with free := s.free + 1 }

/-- The expander's latch takes `WORD`, all eight ports at once (R60); a falling enable line makes the
controller latch a nibble (R66, R72). The enable line is taken at the port the map DECLARES for it. What a
controller latches whose real wiring is another is not in the spec, which says only that it is corrupted
(R358); DESIGN CHOICE (log 32): `ctl` follows the declared port whatever the wiring is. -/
def landWord (s : State) : State :=
  { s with
    bus := Memory.write s.bus s.devAddr.toNat s.word
    ctl := if enableFalls s.pm (Memory.read s.bus s.devAddr.toNat) s.word then s.ctl.latch else s.ctl }

/-- A write that failed, or that a reset abandoned: "whether the latch changed is unknown" (R60), so a
free value says it (log 10). Nothing else depends on that value. -/
def maybeLandWord (s : State) : State :=
  let landed := Config.freeLanded s.free
  { s with
    bus := if landed then (landWord s).bus else s.bus
    ctl := if landed then (landWord s).ctl else s.ctl
    free := s.free + 1 }

/-- The word latch takes the word about to be handed to `TW` (R23). -/
def putWord (w : Byte) (s : State) : State := { s with word := w }

/-- A transport call is answered: the answer is used up, and nothing is outstanding (R78). -/
def requestDone (s : State) : State := { takeAnswer s with req := .none }

/-- `TW(WORD)` goes out: one event of the trace, and the request is held (R11, R55). -/
def issueWrite (s : State) : State :=
  { s with req := .write, trace := s.trace ++ [Event.write s.word] }

/-- `TW(WORD)` comes back. -/
def receiveWrite (s : State) : Flow :=
  match transportAnswer s with
  | .ok _ => .going (landWord (requestDone s))
  | .fail => .aborted (maybeLandWord (requestDone s))
  | .never => .waiting s

/-- `TR()` goes out. -/
def issueRead (s : State) : State :=
  { s with req := .read, trace := s.trace ++ [Event.read] }

/-- The read latch of the phase takes the word (R24, R176). -/
def latchRead (b : Byte) (s : State) : State :=
  match s.npd with
  | .sampleLow => { s with rdLo := b }
  | _ => { s with rdHi := b }

/-- `TR()` comes back; a failed read writes no latch (R178). -/
def receiveRead (s : State) : Flow :=
  match transportAnswer s with
  | .ok b => .going (latchRead b (requestDone s))
  | .fail => .aborted (requestDone s)
  | .never => .waiting s

/-! ### The delay (R12, R56) -/

/-- `Delay(n)` goes out. -/
def issueDelay (n : Micros) (s : State) : State :=
  { s with req := .delay n, trace := s.trace ++ [Event.delay n] }

/-- The wait has ended. With nothing scripted it ends, as R10 (4) has it (log 9). -/
def endDelay (s : State) : State := { s with req := .none, dlIn := s.dlIn.tail }

/-- `Delay(n)` comes back. -/
def receiveDelay (s : State) : Flow :=
  match s.dlIn with
  | .never :: _ => .waiting s
  | .done :: _ => .going (endDelay s)
  | [] => .going (endDelay s)

/-- A whole wait. -/
def delay (n : Micros) (s : State) : Flow := receiveDelay (issueDelay n s)

/-- A wait of the rules that give one. -/
def ownDelay (n : Option Micros) (s : State) : Flow :=
  match n with
  | some n => delay n s
  | none => .going s

/-! ### Accepting, responding, raising (R53, R54, R310) -/

/-- A command word is accepted: the operand latches, `TOP <- BUSY` (R21, R53); `rsp_valid` was up for one
cycle only (R54). -/
def accept (op : BitVec 4) (a0 a1 a2 : Byte) (s : State) : State :=
  { s with op := op, a0 := a0, a1 := a1, a2 := a2, top := .busy, rspValid := false }

/-- The response is presented and `TOP` returns to `IDLE` (R54, R97). -/
def respond (st : Status) (d : Byte) (s : State) : State :=
  { s with
    status := st
    rdata := d
    rspValid := true
    top := .idle
    trace := s.trace ++ [Event.rsp st d] }

/-- `raise X` (R310): no further call and no further delay, `NPD <- DONE`, `STATUS <- code of X`,
`RDATA <- 0`, the response, `TOP <- IDLE`; every other register keeps its value. There is no handler and
no saved address, and no return from it: "There is no return-from-trap operation" (R313). -/
def raise (x : Status) (s : State) : State :=
  respond x 0#8 { s with npd := .done, req := .none }

/-- A failed INIT: `raise TransportError` with the additions of R208 and R310 (5). -/
def raiseInitFailed (s : State) : State := initFailedFlags (raise .transportError s)

/-- The map check comes first (R305). -/
def checked (body : State → State) (s : State) : State :=
  if s.mapValid then body s else raise .configError s

/-! ### The Nibble Protocol Driver (R170 to R180, R184) -/

/-- The transitions of R172, and those of R184 for `RD_SAMPLE = AFTER_PULSE`. -/
def npdNext (sample : RdSample) (rw len : Bool) : Npd → Npd
  | .done => .done
  | .assembleHigh =>
    match sample with
    | .duringEnable => if rw then .sampleHigh else .pulseHigh
    | .afterPulse => .pulseHigh
  | .sampleHigh =>
    match sample with
    | .duringEnable => .pulseHigh
    | .afterPulse => if len then .assembleLow else .done
  | .pulseHigh =>
    match sample with
    | .duringEnable => if len then .assembleLow else .done
    | .afterPulse => if rw then .sampleHigh else if len then .assembleLow else .done
  | .assembleLow =>
    match sample with
    | .duringEnable => if rw then .sampleLow else .pulseLow
    | .afterPulse => .pulseLow
  | .sampleLow =>
    match sample with
    | .duringEnable => .pulseLow
    | .afterPulse => .done
  | .pulseLow =>
    match sample with
    | .duringEnable => .done
    | .afterPulse => if rw then .sampleLow else .done

/-- The driver goes to its next state. -/
def npdAdvance (s : State) : State :=
  { s with npd := npdNext s.prm.rdSample s.rw s.len s.npd }

/-- `WORD <- WORD & ~E_MASK` (R173). -/
def clearEnable (s : State) : State := putWord (s.word &&& ~~~(eMask s)) s

/-- The first half of a driver step (R172): the word is made and its call goes out. -/
def npdIssue (s : State) : State :=
  match s.npd with
  | .done => s
  | .assembleHigh => issueWrite (putWord (encWord s s.rs s.rw true (highNibble s.val)) s)
  | .assembleLow => issueWrite (putWord (encWord s s.rs s.rw true (lowNibble s.val)) s)
  | .pulseHigh => issueWrite (clearEnable s)
  | .pulseLow => issueWrite (clearEnable s)
  | .sampleHigh => issueRead s
  | .sampleLow => issueRead s

/-- The wait after the write of a driver step (R175). -/
def npdWait (s : State) : Micros :=
  match s.npd with
  | .assembleHigh => s.prm.tPulse
  | .assembleLow => s.prm.tPulse
  | _ => s.prm.tSettle

/-- The action of one row of R172. -/
def npdAction (s : State) : Flow :=
  match s.npd with
  | .done => .going s
  | .sampleHigh => receiveRead (npdIssue s)
  | .sampleLow => receiveRead (npdIssue s)
  | _ => (receiveWrite (npdIssue s)).andThen (delay (npdWait s))

/-- One row of R172: the action, then the next state. -/
def npdStep (s : State) : Flow := (npdAction s).andThen fun t => .going (npdAdvance t)

/-- The driver runs until `DONE`: at most six rows. -/
def npdRun : Nat → State → Flow
  | 0, s => .going s
  | n + 1, s => if s.npd = .done then .going s else (npdStep s).andThen (npdRun n)

/-- The operands of a transfer, and the driver at its first state (R171). -/
def xferStart (rs rw : Bool) (val : Byte) (len : Bool) (s : State) : State :=
  { s with rs := rs, rw := rw, val := val, len := len, npd := .assembleHigh }

/-- `Xfer(rs, rw, val, len)` (R171). -/
def xfer (rs rw : Bool) (val : Byte) (len : Bool) (s : State) : Flow :=
  npdRun 6 (xferStart rs rw val len s)

/-- `ReadXfer(len)` (R231): register-select 0, read mode, all data lines high. -/
def readXfer (len : Bool) (s : State) : Flow := xfer false true 0xFF#8 len s

end Sys2Proof.Machine
end

