-- ==== Sys2Proof/Machine/NibbleDriver.lean ====
section
/-! DEFINITION. The operations CMD and DATA (42_nibble_driver.md). -/

namespace Sys2Proof.Machine

/-- `Xfer` of one full byte in write mode, then `respond(OK, 0)`: what CMD and DATA do after the map
check (R181, R182). -/
def byteBody (rs : Bool) (s : State) : State :=
  ((xfer rs false s.a0 true s).andThen fun t => .going (respond .ok 0#8 t)).settle (raise .transportError)

/-- `CMD byte` (R181). -/
def execCmd (byte a1 a2 : Byte) (s : State) : Host.Outcome State Fault Refusal :=
  .next (checked (byteBody false) (accept opCmd byte a1 a2 s))

/-- `DATA byte` (R182). -/
def execData (byte a1 a2 : Byte) (s : State) : Host.Outcome State Fault Refusal :=
  .next (checked (byteBody true) (accept opData byte a1 a2 s))

end Sys2Proof.Machine
end

