-- ==== Sys2Proof/Machine/Layer.lean ====
section
/-! DEFINITION. The pseudo-operation layer: its rows of the table and its calls (46_pseudo_ops.md). -/

namespace Sys2Proof.Machine

/-- The layer puts a command word on the framer's command channel (R270). -/
def layerIssue (w : CmdWord) (s : State) : State :=
  { s with layerOut := s.layerOut ++ [LayerEvent.issue w] }

/-- The layer issues `CMD byte` to the framer, the unused argument bytes zero (log 17). -/
def layerCmd (byte : Byte) (s : State) : State :=
  checked (byteBody false) (accept opCmd byte 0#8 0#8 (layerIssue (cmdWord opCmd byte 0#8 0#8) s))

/-- The layer issues `DATA byte`. -/
def layerData (byte : Byte) (s : State) : State :=
  checked (byteBody true) (accept opData byte 0#8 0#8 (layerIssue (cmdWord opData byte 0#8 0#8) s))

/-- The operation the layer issued last has responded `OK`: the layer goes on (R270). -/
def succeeded (s : State) : Bool := s.top == .idle && s.status == .ok

/-- The host-side wait of CLEAR and HOME (R272, R273), after a command that succeeded (log 17). -/
def layerWait (s : State) : State :=
  if succeeded s then { s with layerOut := s.layerOut ++ [LayerEvent.wait s.prm.tClear.toNat] } else s

/-- CLEAR (R272). -/
def execClear (s : State) : Host.Outcome State Fault Refusal := .next (layerWait (layerCmd 0x01#8 s))

/-- HOME (R273). -/
def execHome (s : State) : Host.Outcome State Fault Refusal := .next (layerWait (layerCmd 0x02#8 s))

/-- SETDDRAM (R275). -/
def execSetddram (addr : BitVec 7) (s : State) : Host.Outcome State Fault Refusal :=
  .next (layerCmd (setddramByte addr) s)

/-- DISPLAYCTL (R276, R271): the flags of the byte, then the byte. -/
def execDisplayctl (d c b : Bool) (s : State) : Host.Outcome State Fault Refusal :=
  .next (layerCmd (displayctlByte d c b) (displayFlags d c b s))

/-- ENTRYMODE (R277, R271): the flags of the byte, then the byte. -/
def execEntrymode (ltr auto : Bool) (s : State) : Host.Outcome State Fault Refusal :=
  .next (layerCmd (entrymodeByte ltr auto) (entryFlags ltr auto s))

/-- SHIFT (R278): no shadow flag changes. -/
def execShift (right : Bool) (s : State) : Host.Outcome State Fault Refusal :=
  .next (layerCmd (shiftByte right) s)

/-- SETCGRAM (R279). -/
def execSetcgram (addr : BitVec 6) (s : State) : Host.Outcome State Fault Refusal :=
  .next (layerCmd (setcgramByte addr) s)

/-- One DATA per pattern byte, first byte first, stopping at the first failure (R270, R279). After the last
one nothing follows: whether LOADGLYPH then restores a DDRAM address is not in the source (R279, N12);
DESIGN CHOICE (log 30): it does not, and the controller's address counter stays in CGRAM. -/
def layerPattern : List Byte → State → State
  | [], s => s
  | b :: r, s => if succeeded s then layerPattern r (layerData b s) else s

/-- The bytes LOADGLYPH sends: the pattern, which has the font's 8 or 10 bytes (R279). What it sends of a
pattern of another length the spec does not state; DESIGN CHOICE (log 33): a free value. -/
def glyphData (pattern : List Byte) (s : State) : List Byte :=
  if pattern.length = glyphBytes s.font then pattern else Config.freeGlyph s.free

/-- The free value of a pattern of another length is used up (log 33). -/
def takeGlyph (pattern : List Byte) (s : State) : State :=
  { s with free := if pattern.length = glyphBytes s.font then s.free else s.free + 1 }

/-- LOADGLYPH (R279): the clamped slot's CGRAM address by one CMD, then the bytes. -/
def loadGlyph (slot : Byte) (pattern : List Byte) (s : State) : State :=
  layerPattern (glyphData pattern s)
    (layerCmd (setcgramByte (cgramAddress s.font slot)) (takeGlyph pattern s))

/-- A call of the layer (R272 to R280). LOADGLYPH ends with its last DATA (log 30). -/
def runCall (c : LayerCall) (s : State) : Host.Outcome State Fault Refusal :=
  match c with
  | .clear => execClear s
  | .home => execHome s
  | .setCursor col row =>
    match ddramAddress s.cols (clampIndex col s.cols) (clampIndex row s.rows) with
    | some a => execSetddram a s
    | none => .refused (.rowUndefined (clampIndex row s.rows))
  | .display on => execDisplayctl on s.curOn s.blinkOn s
  | .cursor on => execDisplayctl s.dispOn on s.blinkOn s
  | .blink on => execDisplayctl s.dispOn s.curOn on s
  | .entryDir ltr => execEntrymode ltr s.autoscroll s
  | .autoscroll on => execEntrymode s.entryLtr on s
  | .scroll right => execShift right s
  | .loadGlyph slot pattern => .next (loadGlyph slot pattern s)
  | .barGraph => .refused .barGraph

end Sys2Proof.Machine
end

