-- ==== Sys2Proof/Machine/Backlight.lean ====
section
/-! DEFINITION. The Backlight Controller's operation BACKLIGHT (45_backlight.md). -/

namespace Sys2Proof.Machine

/-- `BL_ON <- A0[0]`, then `WORD <- BL_MASK` with the new `BL_ON` (R263). -/
def backlightWord (s : State) : State :=
  let t := { s with blOn := s.a0.getLsbD 0 }
  { t with word := blMask t }

/-- What BACKLIGHT does after the map check (R263): one write of the backlight-only word, the settle
wait, `respond(OK, 0)`. -/
def backlightBody (s : State) : State :=
  (((receiveWrite (issueWrite (backlightWord s))).andThen (delay s.prm.tSettle)).andThen
    fun t => .going (respond .ok 0#8 t)).settle (raise .transportError)

/-- `BACKLIGHT on|off` (R263). -/
def execBacklight (on a1 a2 : Byte) (s : State) : Host.Outcome State Fault Refusal :=
  .next (checked backlightBody (accept opBacklight on a1 a2 s))

end Sys2Proof.Machine
end

