-- ==== Sys2Proof/Machine/Init.lean ====
section
/-! DEFINITION. The Initialization Sequencer, the operation INIT, and the sequencer's own rows
(43_init_sequencer.md). -/

namespace Sys2Proof.Machine

/-- `Nib(v)` or `Byte(v)`, then the step's own delay (R204). -/
def seqSend (r : SeqRow) (s : State) : Flow :=
  (xfer false false r.val r.len s).andThen (ownDelay r.own)

/-- The action of step `SEQ` (R204): the power-on wait at 0, a transfer at 1 to 9, nothing at 10. -/
def seqAction (s : State) : Flow :=
  match seqRow s with
  | some r => seqSend r s
  | none => if s.seq = 0#4 then delay s.prm.tPowerOn s else .going s

/-- A step that completed: what it says of the controller, then `SEQ <- SEQ + 1` (R201, R206). -/
def seqAdvance (s : State) : State := { seqEffect s with seq := nextSeq s.seq }

/-- `while SEQ <= 9` (R201); from `SEQ = 0` ten rounds. -/
def seqRun : Nat → State → Flow
  | 0, s => .going s
  | n + 1, s =>
    if s.seq ≤ 9#4 then (seqAction s).andThen fun t => seqRun n (seqAdvance t) else .going s

/-- Step 10 (R211): the flags, then `respond(OK, 0)`. -/
def initFinish (s : State) : State := respond .ok 0#8 (initFlags s)

/-- What INIT does after the map check (R201). -/
def initBody (s : State) : State :=
  ((seqRun 10 (initStart s)).andThen fun t => .going (initFinish t)).settle raiseInitFailed

/-- `INIT cols, rows, font` (R201). -/
def execInit (cols rows font : Byte) (s : State) : Host.Outcome State Fault Refusal :=
  .next (checked initBody (accept opInit cols rows font s))

/-- One row of the sequencer run as an instruction of its own (log 1): the step's transaction with
`TOP = BUSY`; a transport failure is INIT's failure; no response, and `SEQ` stays. -/
def seqAlone (r : SeqRow) (s : State) : State :=
  checked
    (fun t => ((seqSend r t).andThen fun u => .going { u with top := s.top }).settle raiseInitFailed)
    { s with top := .busy, rspValid := false }

/-- K_PROBE (R100, R204 steps 1 to 3). -/
def execKProbe (x : Nibble) (s : State) : Host.Outcome State Fault Refusal :=
  .next (seqAlone (kProbeRow x s) s)

/-- K_SWITCH4 (R100, R204 step 4). -/
def execKSwitch4 (x : Nibble) (s : State) : Host.Outcome State Fault Refusal :=
  .next (seqAlone (kSwitch4Row x) s)

/-- K_FUNCSET (R100, R205, R204 step 5). -/
def execKFuncset (n f : Bool) (s : State) : Host.Outcome State Fault Refusal :=
  .next (seqAlone (kFuncsetRow n f) s)

/-- K_DISPLAY_OFF (R100, R204 step 6). -/
def execKDisplayOff (s : State) : Host.Outcome State Fault Refusal :=
  .next (seqAlone kDisplayOffRow s)

/-- K_CLEAR (R100, R204 step 7). -/
def execKClear (s : State) : Host.Outcome State Fault Refusal :=
  .next (seqAlone (kClearRow s) s)

/-- K_ENTRY_LTR (R100, R204 step 8). -/
def execKEntryLtr (s : State) : Host.Outcome State Fault Refusal :=
  .next (seqAlone kEntryLtrRow s)

/-- K_DISPLAY_ON (R100, R204 step 9). -/
def execKDisplayOn (s : State) : Host.Outcome State Fault Refusal :=
  .next (seqAlone kDisplayOnRow s)

end Sys2Proof.Machine
end

