-- ==== Sys2Proof/Machine/Reader.lean ====
section
/-! DEFINITION. The Quasi-Bidirectional Reader: RDBF and RDAC (44_reader.md). -/

namespace Sys2Proof.Machine

/-- `respond(OK, zext_8(BF))` (R234). -/
def respondBusyFlag (s : State) : State :=
  respond .ok (0#7 ++ BitVec.ofBool (busyFlag s)) s

/-- `respond(OK, zext_8(AC))` (R236). -/
def respondAddressCounter (s : State) : State :=
  respond .ok (0#1 ++ addressCounter s) s

/-- What RDBF does after the map check (R234, R235). -/
def rdbfBody (s : State) : State :=
  ((readXfer s.prm.bfFullCycle s).andThen fun t => .going (respondBusyFlag t)).settle (raise .transportError)

/-- What RDAC does after the map check (R236). -/
def rdacBody (s : State) : State :=
  ((readXfer true s).andThen fun t => .going (respondAddressCounter t)).settle (raise .transportError)

/-- `RDBF` (R234). -/
def execRdbf (a0 a1 a2 : Byte) (s : State) : Host.Outcome State Fault Refusal :=
  .next (checked rdbfBody (accept opRdbf a0 a1 a2 s))

/-- `RDAC` (R236). -/
def execRdac (a0 a1 a2 : Byte) (s : State) : Host.Outcome State Fault Refusal :=
  .next (checked rdacBody (accept opRdac a0 a1 a2 s))

end Sys2Proof.Machine
end

