-- ==== Sys2Proof/Machine/Micro.lean ====
section
/-! DEFINITION. The framer at the grain of R37: one request or one answer a step, told by `OP`, `SEQ`,
`NPD` and the outstanding request alone. `step` runs it from a state that is `BUSY`. -/

namespace Sys2Proof.Machine

/-- The first action of an accepted operation, after the checks (R305, R306). -/
def opStart (s : State) : State :=
  if s.op = opInit then initStart s
  else if s.op = opCmd then xferStart false false s.a0 true s
  else if s.op = opData then xferStart true false s.a0 true s
  else if s.op = opBacklight then issueWrite (backlightWord s)
  else if s.op = opRdbf then xferStart false true 0xFF#8 s.prm.bfFullCycle s
  else if s.op = opRdac then xferStart false true 0xFF#8 true s
  else raise .illegalOp s

/-- A command word is accepted and its operation begun: the map check, the opcode check, the first
action (R53, R305, R306). -/
def begin (w : CmdWord) (s : State) : State :=
  checked opStart (accept (cmdOp w) (cmdA0 w) (cmdA1 w) (cmdA2 w) s)

/-- The operation's last step: its response (R181, R182, R234, R236, R263). -/
def opFinish (s : State) : State :=
  if s.op = opRdbf then respondBusyFlag s
  else if s.op = opRdac then respondAddressCounter s
  else respond .ok 0#8 s

/-- A transfer is over: INIT makes the step's own delay or goes to its next step (R204); every other
operation responds. -/
def xferDone (s : State) : State :=
  if s.op = opInit then
    match (seqRow s).bind SeqRow.own with
    | some n => issueDelay n s
    | none => seqAdvance s
  else opFinish s

/-- The driver goes to its next state, and out of the transfer at `DONE`. -/
def npdGoOn (s : State) : State :=
  let t := npdAdvance s
  if t.npd = .done then xferDone t else t

/-- A wait has ended: the driver's, the sequencer's, or BACKLIGHT's. -/
def delayDone (s : State) : State :=
  if s.npd = .done then (if s.op = opInit then seqAdvance s else opFinish s) else npdGoOn s

/-- INIT between two transfers: the power-on wait, a transfer, or the finish (R204, R211). -/
def seqIssue (s : State) : State :=
  match seqRow s with
  | some r => xferStart false false r.val r.len s
  | none => if s.seq = 0#4 then issueDelay s.prm.tPowerOn s else initFinish s

/-- Nothing is outstanding: the driver's next call, or INIT's next step. -/
def goOn (s : State) : State :=
  if s.npd = .done then (if s.op = opInit then seqIssue s else opStart s) else npdIssue s

/-- The wait after a write: the driver's (R175), or BACKLIGHT's (R263). -/
def writeDone (s : State) : State := issueDelay (npdWait s) s

/-- What a failed call does to the running operation (R178, R208, R310). -/
def opAbort (s : State) : State := if s.op = opInit then raiseInitFailed s else raise .transportError s

/-- One small step from `BUSY`. -/
def smallStep (s : State) : Flow :=
  match s.req with
  | .none => .going (goOn s)
  | .write => (receiveWrite s).andThen fun t => .going (writeDone t)
  | .read => (receiveRead s).andThen fun t => .going (npdGoOn t)
  | .delay _ => (receiveDelay s).andThen fun t => .going (delayDone t)

/-- Small steps until `IDLE`, or until a collaborator never answers. -/
def smallRun : Nat → State → State
  | 0, s => s
  | n + 1, s =>
    match s.top with
    | .idle => s
    | .busy =>
      match smallStep s with
      | .going t => smallRun n t
      | .aborted t => smallRun n (opAbort t)
      | .waiting t => t

end Sys2Proof.Machine
end

