-- ==== Sys2Proof/Machine/PinMapper.lean ====
section
/-! DEFINITION. The Pin Mapper and reset (40_pin_mapper.md, 70_reset_and_hazards.md). -/

namespace Sys2Proof.Machine

/-- `DECL[k] = cfg_decl[4k+3:4k]` (R92). -/
def declCode (decl : BitVec 32) (k : Port) : BitVec 4 := decl.extractLsb' (4 * k.val) 4

/-- The loop variables of R131. -/
structure MapBuild where
  seen : BitVec 8
  bad  : Bool
  pm   : PinMap
  deriving DecidableEq, Repr

/-- One round of the loop of R131. -/
def mapRound (decl : BitVec 32) (b : MapBuild) (k : Port) : MapBuild :=
  let c := (declCode decl k).toNat
  if h : c < 8 then
    { seen := b.seen ||| 1#8 <<< c
      bad := b.bad || b.seen.getLsbD c
      pm := b.pm.set c k h }
  else { b with bad := true }

/-- The loop of R131, over the ports in order; the slots start at zero (log 14). -/
def buildMap (decl : BitVec 32) : MapBuild :=
  [0, 1, 2, 3, 4, 5, 6, 7].foldl (mapRound decl)
    { seen := 0#8, bad := false, pm := #v[0, 0, 0, 0, 0, 0, 0, 0] }

/-- Reset, which is construction (R58, R340, R341): the configuration inputs are sampled, the Pin Mapper
runs, the other registers take their reset values; no transport call, no delay, an empty trace. The
expander and the controller keep what they have, of which the framer knows nothing (R47). -/
def construct (decl : BitVec 32) (pol : Bool) (addr : DevAddr) (s : State) : State :=
  { s with
    pm := (buildMap decl).pm
    mapValid := !(buildMap decl).bad
    blPol := Polarity.ofBit pol
    devAddr := addr
    op := 0#4
    a0 := 0#8
    a1 := 0#8
    a2 := 0#8
    val := 0#8
    rs := false
    rw := false
    len := false
    word := 0#8
    rdHi := 0#8
    rdLo := 0#8
    status := .ok
    rdata := 0#8
    cols := 0#8
    rows := 0#8
    font := false
    dispOn := false
    curOn := false
    blinkOn := false
    entryLtr := false
    autoscroll := false
    blOn := s.prm.blReset
    initOk := false
    top := .idle
    seq := 0#4
    npd := .done
    rspValid := false
    req := .none
    ctl := .unknown }

/-- Reset while a request is outstanding (R343): its answer is lost with it, and whether an abandoned
write reached the latch is not known (log 15). -/
def abandon (s : State) : State :=
  match s.req with
  | .none => s
  | .write => maybeLandWord (takeAnswer s)
  | .read => takeAnswer s
  | .delay _ => { s with dlIn := s.dlIn.tail }

end Sys2Proof.Machine
end

