-- ==== Sys2Proof/Machine/Channels.lean ====
section
/-! DEFINITION. The ports of R52 to R57, and what a step does that is no instruction. -/

namespace Sys2Proof.Machine

/-- `cmd_ready` (R53). -/
def cmdReady (s : State) : Bool := s.top == .idle

/-- `rsp` (R54, R97). -/
def rspWord (s : State) : BitVec 10 := s.status.code ++ s.rdata

/-- `tp_valid`, and `tp_addr`, "always `DEV_ADDR`" (R55). -/
def tpValid (s : State) : Bool := s.req == .write || s.req == .read
def tpAddr (s : State) : DevAddr := s.devAddr

/-- `tp_read` (R55): 0 in a write, 1 in a read. With `tp_valid` = 0 the spec gives no level; DESIGN CHOICE
(log 29): a free value. -/
def tpRead (s : State) : Bool :=
  match s.req with
  | .write => false
  | .read => true
  | .delay _ => Config.freeTpRead s.free
  | .none => Config.freeTpRead s.free

/-- `tp_wdata` (R55): the word of a write. With no write outstanding the spec gives no level; DESIGN CHOICE
(log 29): a free value. -/
def tpWdata (s : State) : Byte :=
  match s.req with
  | .write => s.word
  | .read => Config.freeTpWdata s.free
  | .delay _ => Config.freeTpWdata s.free
  | .none => Config.freeTpWdata s.free

/-- `dl_valid` (R56). -/
def dlValid (s : State) : Bool :=
  match s.req with
  | .delay _ => true
  | .write => false
  | .read => false
  | .none => false

/-- `dl_us` (R56): the microseconds of the outstanding wait. With `dl_valid` = 0 the spec gives no value;
DESIGN CHOICE (log 29): a free value. -/
def dlUs (s : State) : Micros :=
  match s.req with
  | .delay n => n
  | .write => Config.freeDlUs s.free
  | .read => Config.freeDlUs s.free
  | .none => Config.freeDlUs s.free

/-- The status outputs (R57): `map_valid`, `init_ok`, `bl_on`, `cols`, `rows`, `font`. -/
def statusOutputs (s : State) : Bool × Bool × Bool × Byte × Byte × Bool :=
  (s.mapValid, s.initOk, s.blOn, s.cols, s.rows, s.font)

/-- Idle with nothing presented: `rsp_valid` falls (R54). -/
def idleStep (s : State) : State := { s with rspValid := false }

/-- The host waits between operations (R351). -/
def hostWait (us : Nat) (s : State) : State :=
  { s with rspValid := false, layerOut := s.layerOut ++ [LayerEvent.wait us] }

/-- The display loses its power and has it again while the framer runs on (R360): `INIT_OK` stays as it
was, and the controller powers on in a state nobody knows (R47). That it lands between operations alone,
and leaves the expander's latch, is log 31. -/
def displayPowerLoss (s : State) : State := { s with rspValid := false, ctl := .unknown }

/-- A command word with a reserved opcode (R98, R306): accepted, then `ILLEGAL_OP`, or `CONFIG_ERROR`
when the map is invalid. -/
def reservedOp (w : CmdWord) (s : State) : State :=
  checked (raise .illegalOp) (accept (cmdOp w) (cmdA0 w) (cmdA1 w) (cmdA2 w) s)

/-- A fetched word that decodes to no instruction. -/
def undecoded (f : Fetched) (s : State) : Host.Outcome State Fault Refusal :=
  match f with
  | .port w => .next (reservedOp w s)
  | .sequencer _ v => .refused (.noRow v)
  | .layer v => .refused (.noRow v)

/-- A step from `BUSY`: one small step, or the named stuck state (R64). -/
def busyStep (s : State) : Host.Outcome State Fault Refusal :=
  match smallStep s with
  | .going t => .next t
  | .aborted t => .next (opAbort t)
  | .waiting t =>
    match t.req with
    | .delay _ => .fault .delaySilent
    | _ => .fault .transportSilent

/-- Reset (R340, R343). -/
def resetStep (decl : BitVec 32) (pol : Bool) (addr : DevAddr) (s : State) : State :=
  construct decl pol addr (abandon s)

end Sys2Proof.Machine
end

