-- ==== Sys2Proof/Machine/Dispatch.lean ====
section
/-! DEFINITION. One arm per instruction. -/

namespace Sys2Proof.Machine

def exec (i : Instr) (s : State) : Host.Outcome State Fault Refusal :=
  match i with
  | .init cols rows font => Sys2Proof.Machine.execInit cols rows font s
  | .cmd byte a1 a2 => Sys2Proof.Machine.execCmd byte a1 a2 s
  | .data byte a1 a2 => Sys2Proof.Machine.execData byte a1 a2 s
  | .backlight on a1 a2 => Sys2Proof.Machine.execBacklight on a1 a2 s
  | .rdbf a0 a1 a2 => Sys2Proof.Machine.execRdbf a0 a1 a2 s
  | .rdac a0 a1 a2 => Sys2Proof.Machine.execRdac a0 a1 a2 s
  | .kProbe x => Sys2Proof.Machine.execKProbe x s
  | .kSwitch4 x => Sys2Proof.Machine.execKSwitch4 x s
  | .kFuncset n f => Sys2Proof.Machine.execKFuncset n f s
  | .kDisplayOff => Sys2Proof.Machine.execKDisplayOff s
  | .kClear => Sys2Proof.Machine.execKClear s
  | .kEntryLtr => Sys2Proof.Machine.execKEntryLtr s
  | .kDisplayOn => Sys2Proof.Machine.execKDisplayOn s
  | .clear => Sys2Proof.Machine.execClear s
  | .home => Sys2Proof.Machine.execHome s
  | .setddram addr => Sys2Proof.Machine.execSetddram addr s
  | .displayctl d c b => Sys2Proof.Machine.execDisplayctl d c b s
  | .entrymode ltr auto => Sys2Proof.Machine.execEntrymode ltr auto s
  | .shift right => Sys2Proof.Machine.execShift right s
  | .setcgram addr => Sys2Proof.Machine.execSetcgram addr s

end Sys2Proof.Machine
end

