-- ==== Sys2Proof/Machine/Step.lean ====
section
/-! DEFINITION. One step: a reset, a small step of a running operation, or one input of the host. -/

namespace Sys2Proof.Machine

/-- A fetched word: the instruction it decodes to, run whole. -/
def fetchStep (f : Fetched) (s : State) : Host.Outcome State Fault Refusal :=
  match decode f with
  | .ok i => exec i s
  | .error _ => undecoded f s

/-- An idle framer takes the host's next input (R53). -/
def idleInput (e : HostEvent) (s : State) : Host.Outcome State Fault Refusal :=
  match e with
  | .fetch f => fetchStep f s
  | .call c => runCall c s
  | .wait us => .next (hostWait us s)
  | .reset decl pol addr => .next (resetStep decl pol addr s)
  | .powerLoss => .next (displayPowerLoss s)

/-- One step of the machine. Reset acts whatever `TOP` is (R343); a busy framer takes no other input
(R53 "held off, not refused"). -/
def step (s : State) : Host.Outcome State Fault Refusal :=
  match s.hostIn, s.top with
  | .reset decl pol addr :: rest, _ => .next (resetStep decl pol addr { s with hostIn := rest })
  | _, .busy => busyStep s
  | [], .idle => .next (idleStep s)
  | e :: rest, .idle => idleInput e { s with hostIn := rest }

/-- `s` with the instruction of a table word presented as the host's next input, to an idle framer. -/
def State.withFetchWord (s : State) (nbits w : Nat) : State :=
  match fetchedOfTableWord nbits w with
  | some f => { s with hostIn := .fetch f :: s.hostIn, top := .idle }
  | none => s

end Sys2Proof.Machine
end

