-- ==== Sys2Proof/Safety.lean ====
section
/-! DEFINITION. What holds in every safe state, what a host may do, and the terms claims use: the
answers still to come, the events of a transfer and of an operation. -/

namespace Sys2Proof.Machine

/-! ### The invariant -/

/-- What every step keeps. -/
structure Inv (s : State) : Prop where
  /-- The memory is in its canonical form. -/
  busCanonical : Memory.wf s.bus = true
  /-- R30: "each physical port index 0–7 appears in exactly one slot if the declaration is valid". -/
  mapIsPerm : s.mapValid = true → PinMap.IsPerm s.pm
  /-- R35: the values 11 to 15 of `SEQ` are never taken. -/
  seqInTable : s.seq ≤ 10#4
  /-- R36, R34: `NPD = DONE` whenever no transfer is running; an idle framer asks nothing of anyone. -/
  idleAtRest : s.top = .idle → s.npd = .done ∧ s.req = .none
  /-- R305: no operation runs on an invalid map. -/
  busyMapValid : s.top = .busy → s.mapValid = true
  /-- R54: no response is presented while an operation runs. -/
  busyNoResponse : s.top = .busy → s.rspValid = false
  /-- R320: `READY` has a valid map. -/
  initOkMapValid : s.initOk = true → s.mapValid = true
  /-- R26: `FONT` is 0 whenever `ROWS > 1`. -/
  fontFits : s.font = true → s.rows ≤ 1#8

/-- An idle framer with a valid map, in a state the machine can be in: an operation may start. -/
structure Ready (s : State) : Prop where
  inv : Inv s
  idle : s.top = .idle
  map : s.mapValid = true

/-! ### The collaborators' answers -/

/-- The state with `n` transport answers used up: only `tpIn` and `free` differ. -/
def takeAnswers : Nat → State → State
  | 0, s => s
  | n + 1, s => takeAnswers n (takeAnswer s)

/-- The answer to the transport call after `k` more (R65: "the answer of the i-th call"). -/
def answer (k : Nat) (s : State) : TpAnswer := transportAnswer (takeAnswers k s)

/-- A transport call succeeded. -/
def TpAnswer.isOk : TpAnswer → Bool
  | .ok _ => true
  | .fail => false
  | .never => false

/-- The byte of an answer; it counts for a successful read only. -/
def TpAnswer.byte : TpAnswer → Byte
  | .ok b => b
  | .fail => 0#8
  | .never => 0#8

/-- The next `n` transport calls succeed. -/
abbrev CallsSucceed (n : Nat) (s : State) : Prop := ∀ k < n, (answer k s).isOk = true

/-- Every wait ends (R10 (4), R56). -/
abbrev DelaysEnd (s : State) : Prop := ∀ a ∈ s.dlIn, a = DlAnswer.done

/-- The wait number `k` never ends, and those before it do (R361, U10). -/
def FirstSilentDelay (k : Nat) (s : State) : Prop :=
  (∀ j < k, s.dlIn[j]? = some DlAnswer.done) ∧ s.dlIn[k]? = some DlAnswer.never

/-- Which call of a read transfer brings the word of its first phase, and of its second (R172, R184). -/
def highReadCall (p : Params) : Nat := match p.rdSample with | .duringEnable => 1 | .afterPulse => 2
def lowReadCall (p : Params) : Nat := match p.rdSample with | .duringEnable => 4 | .afterPulse => 5

/-- The words the next read transfer will bring (R176, R184). -/
def highRead (s : State) : Byte := (answer (highReadCall s.prm) s).byte
def lowRead (s : State) : Byte := (answer (lowReadCall s.prm) s).byte

/-! ### Events -/

/-- `W(W1) D(T_PULSE_US) W(W0) D(T_SETTLE_US)` of one write nibble (R179). -/
def nibbleEvents (s : State) (rs : Bool) (n : Nibble) : List Event :=
  [Event.write (encWord s rs false true n), Event.delay s.prm.tPulse,
   Event.write (encWord s rs false false n), Event.delay s.prm.tSettle]

/-- The same of a write byte, high nibble first (R68, R179). -/
def byteEvents (s : State) (rs : Bool) (v : Byte) : List Event :=
  nibbleEvents s rs (highNibble v) ++ nibbleEvents s rs (lowNibble v)

/-- One phase of a read transfer (R180; R184 for the other sample point). -/
def readPhaseEvents (s : State) : List Event :=
  match s.prm.rdSample with
  | .duringEnable =>
    [Event.write (encWord s false true true 0xF#4), Event.delay s.prm.tPulse, .read,
     Event.write (encWord s false true false 0xF#4), Event.delay s.prm.tSettle]
  | .afterPulse =>
    [Event.write (encWord s false true true 0xF#4), Event.delay s.prm.tPulse,
     Event.write (encWord s false true false 0xF#4), Event.delay s.prm.tSettle, .read]

/-- A read transfer of one or two phases (R180, R231). -/
def readEvents (s : State) (len : Bool) : List Event :=
  if len then readPhaseEvents s ++ readPhaseEvents s else readPhaseEvents s

/-- The eleven steps of INIT on success, without the response (R204). -/
def initEvents (s : State) (rows : Byte) (font : Bool) : List Event :=
  [Event.delay s.prm.tPowerOn] ++
  (nibbleEvents s false 3#4 ++ [Event.delay s.prm.tProbe1]) ++
  (nibbleEvents s false 3#4 ++ [Event.delay s.prm.tProbe2]) ++
  (nibbleEvents s false 3#4 ++ [Event.delay s.prm.tProbe3]) ++
  nibbleEvents s false 2#4 ++
  byteEvents s false (funcsetByte (twoLines rows) (effectiveFont font rows)) ++
  byteEvents s false 0x08#8 ++
  (byteEvents s false 0x01#8 ++ [Event.delay s.prm.tClear]) ++
  byteEvents s false 0x06#8 ++
  byteEvents s false 0x0C#8

/-- What BACKLIGHT does (R263), with the new backlight state. -/
def backlightEvents (s : State) (on : Byte) : List Event :=
  [Event.write (blMask { s with blOn := on.getLsbD 0 }), Event.delay s.prm.tSettle]

/-- The events of an instruction in which every call succeeds, without its response: R181, R182, R204,
R231, R263; a sequencer's row with its step's own delay; a layer's row is a CMD of its byte (R272 to R279). -/
def successEvents (s : State) : Instr → List Event
  | .init _ rows font => initEvents s rows (font.getLsbD 0)
  | .cmd byte _ _ => byteEvents s false byte
  | .data byte _ _ => byteEvents s true byte
  | .backlight on _ _ => backlightEvents s on
  | .rdbf _ _ _ => readEvents s s.prm.bfFullCycle
  | .rdac _ _ _ => readEvents s true
  | .kProbe _ => nibbleEvents s false 3#4 ++ (probeDelay s).toList.map Event.delay
  | .kSwitch4 _ => nibbleEvents s false 2#4
  | .kFuncset n f => byteEvents s false (funcsetByte n f)
  | .kDisplayOff => byteEvents s false 0x08#8
  | .kClear => byteEvents s false 0x01#8 ++ [Event.delay s.prm.tClear]
  | .kEntryLtr => byteEvents s false 0x06#8
  | .kDisplayOn => byteEvents s false 0x0C#8
  | .clear => byteEvents s false 0x01#8
  | .home => byteEvents s false 0x02#8
  | .setddram a => byteEvents s false (setddramByte a)
  | .displayctl d c b => byteEvents s false (displayctlByte d c b)
  | .entrymode ltr auto => byteEvents s false (entrymodeByte ltr auto)
  | .shift right => byteEvents s false (shiftByte right)
  | .setcgram a => byteEvents s false (setcgramByte a)

/-- A transport call of the trace. -/
def Event.isCall : Event → Bool
  | .write _ => true
  | .read => true
  | .delay _ => false
  | .rsp _ _ => false

/-- A transport write of the trace. -/
def Event.isWrite : Event → Bool
  | .write _ => true
  | .read => false
  | .delay _ => false
  | .rsp _ _ => false

/-- A delay request of the trace. -/
def Event.isDelay : Event → Bool
  | .write _ => false
  | .read => false
  | .delay _ => true
  | .rsp _ _ => false

/-- A response of the trace. -/
def Event.isResponse : Event → Bool
  | .write _ => false
  | .read => false
  | .delay _ => false
  | .rsp _ _ => true

/-- The microseconds an event asks to wait at least (R12). -/
def Event.wait : Event → Nat
  | .write _ => 0
  | .read => 0
  | .delay n => n.toNat
  | .rsp _ _ => 0

/-- The prefix up to and including the `j`-th event of a kind, counted from 0. -/
def cutAt (kind : Event → Bool) : Nat → List Event → List Event
  | _, [] => []
  | j, e :: r =>
    if kind e then
      match j with
      | 0 => [e]
      | j + 1 => e :: cutAt kind j r
    else e :: cutAt kind j r

/-- The prefix up to and including the call number `j` (R178, R208), or the wait number `k` (R361). -/
abbrev cutAtCall (j : Nat) (ev : List Event) : List Event := cutAt Event.isCall j ev
abbrev cutAtDelay (k : Nat) (ev : List Event) : List Event := cutAt Event.isDelay k ev

/-- How many transport calls an event list makes. -/
def calls (ev : List Event) : Nat := (ev.filter Event.isCall).length

/-- The steps of INIT by the number of the transport write (R204): writes 0 to 7 are the four nibbles of
steps 1 to 4, writes 8 to 27 the five bytes of steps 5 to 9. -/
def seqOfWrite (j : Nat) : Nat := if j < 8 then 1 + j / 2 else 5 + (j - 8) / 4

/-- R79: after every write of a list that is not its operation's failed or unanswered last one, a delay
comes next, of at least `T_PULSE_US` when the word has enable set and `T_SETTLE_US` otherwise; after a read
none comes. -/
def spaced (s : State) : List Event → Bool
  | [] => true
  | .write w :: .delay n :: r =>
    decide ((if atSlot s.pm w slotE then s.prm.tPulse else s.prm.tSettle) ≤ n) && spaced s r
  | [.write _, .rsp st _] => st == .transportError
  | [.write _] => true
  | .write _ :: _ => false
  | .read :: .delay _ :: _ => false
  | .read :: r => spaced s r
  | .delay _ :: r => spaced s r
  | .rsp _ _ :: r => spaced s r

/-! ### What the host must respect (R320, R345, R350): one named premise a rule

The machine runs a program that breaks them; only the controller's behaviour is then undefined (R350).
Three of the rules ask for no premise here. R356 (one owner): `hostIn` is one sequence, and an operation
or a call of the layer is one step. R359 (one map both ways): `phys` and `log` read the same `pm`, which
no operation writes. R362: nothing but the wait of R351 stands between two operations. -/

/-- What an input of the host is to these rules. -/
inductive Use where
  | init
  | backlight
  /-- CMD or DATA; is it the clear or the home command (R351)? -/
  | send (slow : Bool)
  /-- RDBF. -/
  | poll
  /-- RDAC. -/
  | counter
  /-- The pseudo-operation layer, by a call or a row of its own. -/
  | layer (slow : Bool)
  /-- A sequencer's row, or a word of no operation: no host issues it. -/
  | foreign
  /-- A wait, a reset, a loss of power: no operation. -/
  | outside
  deriving DecidableEq, Repr

/-- The clear and the home command (R351). -/
def isSlowCommand (b : Byte) : Bool := b == 0x01#8 || b == 0x02#8

/-- The use of an instruction. -/
def instrUse : Instr → Use
  | .init _ _ _ => .init
  | .cmd b _ _ => .send (isSlowCommand b)
  | .data _ _ _ => .send false
  | .backlight _ _ _ => .backlight
  | .rdbf _ _ _ => .poll
  | .rdac _ _ _ => .counter
  | .kProbe _ => .foreign
  | .kSwitch4 _ => .foreign
  | .kFuncset _ _ => .foreign
  | .kDisplayOff => .foreign
  | .kClear => .foreign
  | .kEntryLtr => .foreign
  | .kDisplayOn => .foreign
  | .clear => .layer true
  | .home => .layer true
  | .setddram _ => .layer false
  | .displayctl _ _ _ => .layer false
  | .entrymode _ _ => .layer false
  | .shift _ => .layer false
  | .setcgram _ => .layer false

/-- The use of an input. -/
def HostEvent.use : HostEvent → Use
  | .fetch f =>
    match decode f with
    | .ok i => instrUse i
    | .error _ => .foreign
  | .call c => .layer (c == .clear || c == .home)
  | .wait _ => .outside
  | .reset _ _ _ => .outside
  | .powerLoss => .outside

/-- R355: the layer is used after a successful INIT only, and not after a failed one. -/
def layerAfterInit (c : Condition) : Use → Bool
  | .layer _ => c == .ready
  | .init | .backlight | .send _ | .poll | .counter | .foreign | .outside => true

/-- R357, R345 (4) and (5): before an INIT has succeeded, and after one has failed, nothing is sent to the
controller but INIT. With an invalid map nothing reaches it, so any operation may be issued to see
`CONFIG_ERROR` (R345 (2)). -/
def initBeforeUse (c : Condition) : Use → Bool
  | .send _ | .poll | .counter | .layer _ => c != .uninitialised
  | .init | .backlight | .foreign | .outside => true

/-- R320's "what the host may issue", with R345's order. -/
def mayIssue (c : Condition) (u : Use) : Bool :=
  u != .foreign && layerAfterInit c u && initBeforeUse c u

/-- What the rules of section 3 leave a host to do, carried along its inputs. -/
structure Duties where
  /-- Microseconds still to wait after a clear or home (R351). -/
  settle  : Nat
  /-- An operation on the controller failed, and no INIT has succeeded since (R353). -/
  reinit  : Bool
  /-- The display lost its power, and no INIT has succeeded since (R360). -/
  unpowered : Bool
  /-- Polls of the busy flag since the last other operation (R354). -/
  polls   : Nat
  deriving DecidableEq, Repr

/-- No duty: a program's start. -/
def Duties.start : Duties where
  settle    := 0
  reinit    := false
  unpowered := false
  polls     := 0

/-- R351: while a settle wait is owed, nothing but a poll of the busy flag. -/
def Duties.settleKept (d : Duties) : Use → Bool
  | .outside | .poll => true
  | .init | .backlight | .send _ | .counter | .layer _ | .foreign => d.settle == 0

/-- R353: INIT before any further CMD or DATA. -/
def Duties.reinitKept (d : Duties) : Use → Bool
  | .send _ | .layer _ => !d.reinit
  | .init | .backlight | .poll | .counter | .foreign | .outside => true

/-- R354: at most `bound` polls in a row. -/
def Duties.pollsBounded (bound : Nat) (d : Duties) : Use → Bool
  | .poll => decide (d.polls < bound)
  | .init | .backlight | .send _ | .counter | .layer _ | .foreign | .outside => true

/-- R360, R329: after a loss of the display's power, INIT before anything else of the controller. -/
def Duties.powerKept (d : Duties) : Use → Bool
  | .send _ | .poll | .counter | .layer _ => !d.unpowered
  | .init | .backlight | .foreign | .outside => true

/-- The host keeps R320, R345, R351, R353, R354, R355, R357 and R360 with this input. -/
def Duties.keeps (bound : Nat) (d : Duties) (c : Condition) (e : HostEvent) : Bool :=
  mayIssue c e.use && d.settleKept e.use && d.reinitKept e.use && d.pollsBounded bound e.use &&
    d.powerKept e.use

/-- An operation ended in `TRANSPORT_ERROR`. -/
def failed (t : State) : Bool := t.top == .idle && t.status == .transportError

/-- The settle time owed after an input that led from `s` to `t`: waits add up; a poll ends it when it
answers "not busy" with `OK` (R354); the layer makes its own wait after a command that succeeded (R272). -/
def settleOwed (s t : State) (e : HostEvent) (owed : Nat) : Nat :=
  match e with
  | .wait us => owed - us
  | .reset _ _ _ => owed
  | .powerLoss => owed
  | .fetch _ | .call _ =>
    match e.use with
    | .poll => if succeeded t && t.rdata == 0#8 then 0 else owed
    | .send slow => if slow && s.mapValid then s.prm.tClear.toNat else owed
    | .layer slow =>
      if slow && s.mapValid then (if succeeded t then 0 else s.prm.tClear.toNat) else owed
    | .init | .backlight | .counter | .foreign | .outside => owed

/-- The duties after an input that led from `s` to `t`. -/
def Duties.next (s t : State) (e : HostEvent) (d : Duties) : Duties where
  settle := settleOwed s t e d.settle
  reinit :=
    match e.use with
    | .init => d.reinit && !succeeded t
    | .send _ | .poll | .counter | .layer _ => d.reinit || failed t
    | .backlight | .foreign | .outside => d.reinit
  unpowered :=
    match e.use with
    | .init => d.unpowered && !succeeded t
    | .backlight | .send _ | .poll | .counter | .layer _ | .foreign | .outside =>
      d.unpowered || e == .powerLoss
  polls :=
    match e.use with
    | .poll => d.polls + 1
    | .outside => d.polls
    | .init | .backlight | .send _ | .counter | .layer _ | .foreign => 0

/-- The input a step takes from the host, if it takes one. -/
def inputTaken (s : State) : Option HostEvent :=
  match s.hostIn, s.top with
  | .reset decl pol addr :: _, _ => some (.reset decl pol addr)
  | _, .busy => none
  | [], .idle => none
  | e :: _, .idle => some e

/-- The host keeps its rules with the input this step takes. -/
def hostInOrder (bound : Nat) (d : Duties) (s : State) : Bool :=
  match inputTaken s with
  | none => true
  | some e => d.keeps bound (condition s) e

/-- The duties after a step from `s` to `t`. -/
def Duties.step (s t : State) (d : Duties) : Duties :=
  match inputTaken s with
  | none => d
  | some e => d.next s t e

/-- The program in `hostIn` keeps the host's rules for `n` steps, from duties `d`. -/
def hostKeeps (bound : Nat) : Nat → Duties → State → Bool
  | 0, _, _ => true
  | n + 1, d, s =>
    hostInOrder bound d s &&
      match step s with
      | .next t => hostKeeps bound n (d.step s t) t
      | .fault _ => true
      | .refused _ => true

/-- R358, R345 (1): every valid declaration, the one in force and those of resets to come, describes the
real wiring, which the framer cannot check. The machine itself reads the declared map alone (log 32). -/
def WiringIsReal (wiring : PinMap) (s : State) : Prop :=
  (s.mapValid = true → s.pm = wiring) ∧
  ∀ decl pol addr, HostEvent.reset decl pol addr ∈ s.hostIn → (buildMap decl).bad = false →
    (buildMap decl).pm = wiring

/-- R352: no wait is below the documented minimum. That a wait lasts at least what it asks for is what
`Event.delay` means (R12). -/
def TimesCover (least : Params) (s : State) : Prop :=
  least.tPowerOn ≤ s.prm.tPowerOn ∧ least.tProbe1 ≤ s.prm.tProbe1 ∧ least.tProbe2 ≤ s.prm.tProbe2 ∧
  least.tProbe3 ≤ s.prm.tProbe3 ∧ least.tPulse ≤ s.prm.tPulse ∧ least.tSettle ≤ s.prm.tSettle ∧
  least.tClear ≤ s.prm.tClear

/-- R361: every transport call is answered and every wait ends. -/
def CollaboratorsAnswer (s : State) : Prop := (∀ a ∈ s.tpIn, a ≠ TpAnswer.never) ∧ DelaysEnd s

/-- R350: all the rules of section 3 that a program or its surroundings can break. -/
structure HazardsRespected (bound : Nat) (wiring : PinMap) (least : Params) (s : State) : Prop where
  program : ∀ n, hostKeeps bound n Duties.start s = true
  wiring : WiringIsReal wiring s
  times : TimesCover least s
  answers : CollaboratorsAnswer s

/-- What a host that keeps its rules may rely on (R47, R72, R206): in `READY`, with no INIT owed, the
controller is in 4-bit mode and expects a high nibble, and the enable line is low. It is about the
controller behind the declared wiring (log 32): of a real display it says something under `WiringIsReal`
alone. -/
def Aligned (d : Duties) (s : State) : Prop :=
  condition s = .ready → d.reinit = false → d.unpowered = false →
    s.ctl = .expectsHigh ∧ atSlot s.pm (Memory.read s.bus s.devAddr.toNat) slotE = false

end Sys2Proof.Machine
end

