-- ==== Sys2Proof/Certificates/Slice0/Obligations.lean ====
section
/-! DEFINITION. The statements for the provers. -/

namespace Sys2Proof.Machine.Expect

/-- The state after a full byte was sent and answered OK (R181, R182), from an idle framer. -/
def sent (op : BitVec 4) (rs : Bool) (byte a1 a2 : Byte) (s : State) : State :=
  { takeAnswers 4 s with
    op := op
    a0 := byte
    a1 := a1
    a2 := a2
    val := byte
    rs := rs
    rw := false
    len := true
    word := encWord s rs false false (lowNibble byte)
    status := .ok
    rdata := 0#8
    rspValid := true
    bus := Memory.write s.bus s.devAddr.toNat (encWord s rs false false (lowNibble byte))
    dlIn := s.dlIn.drop 4
    trace := s.trace ++ byteEvents s rs byte ++ [.rsp .ok 0#8] }

/-- The state after the layer's CMD of a byte was answered OK (R270). -/
def layerSent (byte : Byte) (s : State) : State :=
  { sent 0x2#4 false byte 0#8 0#8 s with
    layerOut := s.layerOut ++ [LayerEvent.issue (0x2#4 ++ byte ++ 0#8 ++ 0#8)] }

/-- The state after a single nibble of the sequencer, with the step's own delay (R204). -/
def nibbleSent (n x : Nibble) (own : Option Micros) (s : State) : State :=
  { takeAnswers 2 s with
    val := n ++ x
    rs := false
    rw := false
    len := false
    word := encWord s false false false n
    rspValid := false
    bus := Memory.write s.bus s.devAddr.toNat (encWord s false false false n)
    ctl := s.ctl.latch
    dlIn := s.dlIn.drop (2 + own.toList.length)
    trace := s.trace ++ nibbleEvents s false n ++ own.toList.map Event.delay }

/-- The state after a full byte of the sequencer, with the step's own delay (R204). -/
def seqByteSent (byte : Byte) (own : Option Micros) (s : State) : State :=
  { takeAnswers 4 s with
    val := byte
    rs := false
    rw := false
    len := true
    word := encWord s false false false (lowNibble byte)
    rspValid := false
    bus := Memory.write s.bus s.devAddr.toNat (encWord s false false false (lowNibble byte))
    dlIn := s.dlIn.drop (4 + own.toList.length)
    trace := s.trace ++ byteEvents s false byte ++ own.toList.map Event.delay }

/-- The state after a completed read transfer, before the response (R231). -/
def readDone (op : BitVec 4) (a0 a1 a2 : Byte) (len : Bool) (s : State) : State :=
  { takeAnswers (if len then 6 else 3) s with
    op := op
    a0 := a0
    a1 := a1
    a2 := a2
    val := 0xFF#8
    rs := false
    rw := true
    len := len
    word := encWord s false true false 0xF#4
    rdHi := highRead s
    rdLo := if len then lowRead s else s.rdLo
    bus := Memory.write s.bus s.devAddr.toNat (encWord s false true false 0xF#4)
    ctl := if len then s.ctl else s.ctl.latch
    dlIn := s.dlIn.drop (if len then 4 else 2)
    trace := s.trace ++ readEvents s len }

/-- That state with the response `RSP(OK, d)`. -/
def readAnswered (d : Byte) (t : State) : State :=
  { t with
    status := .ok
    rdata := d
    rspValid := true
    trace := t.trace ++ [.rsp .ok d] }

/-- The host's next input is no reset. -/
abbrev NoResetNext (s : State) : Prop := ∀ d p a r, s.hostIn ≠ HostEvent.reset d p a :: r

/-- A row the Initialization Sequencer sends, and a row the pseudo-operation layer sends. -/
abbrev IsSequencerRow (i : Instr) : Prop := ∃ len v, encode i = .sequencer len v
abbrev IsLayerRow (i : Instr) : Prop := ∃ v, encode i = .layer v

/-- The nibbles on the data lines of the words that have enable low, in order (R213 d). -/
def enableLowNibbles (pm : PinMap) (ev : List Event) : List Nibble :=
  ev.filterMap fun e =>
    match e with
    | .write w => if atSlot pm w slotE then none else some ((log pm w).extractLsb' 1 4)
    | _ => none

/-- The words an event list writes, in order. -/
def writtenWords (ev : List Event) : List Byte :=
  ev.filterMap fun e =>
    match e with
    | .write w => some w
    | _ => none

end Sys2Proof.Machine.Expect

open Sys2Proof Sys2Proof.Machine Sys2Proof.Machine.Expect

/-! ### Encoding -/

/-- No bit of an encoding is dropped: decoding what the encoder writes gives the instruction back. -/
def Obligations.DecodeOfEncodeIsTheInstruction : Prop :=
  ∀ i : Instr, decode (encode i) = .ok i

/-- Each fetched word has one meaning: what decodes to an instruction is that instruction's encoding. -/
def Obligations.EncodeOfDecodeIsTheWord : Prop :=
  ∀ (f : Fetched) (i : Instr), decode f = .ok i → encode i = f

/-- R106: a decoder from match and mask alone. -/
def Obligations.CommandPortDecodesByMatchAndMask : Prop :=
  ∀ w : CmdWord,
    (w &&& 0xF000000#28 = 0x1000000#28 →
      decode (.port w) = .ok (.init (w.extractLsb' 16 8) (w.extractLsb' 8 8) (w.extractLsb' 0 8))) ∧
    (w &&& 0xF000000#28 = 0x2000000#28 →
      decode (.port w) = .ok (.cmd (w.extractLsb' 16 8) (w.extractLsb' 8 8) (w.extractLsb' 0 8))) ∧
    (w &&& 0xF000000#28 = 0x3000000#28 →
      decode (.port w) = .ok (.data (w.extractLsb' 16 8) (w.extractLsb' 8 8) (w.extractLsb' 0 8))) ∧
    (w &&& 0xF000000#28 = 0x4000000#28 →
      decode (.port w) = .ok (.backlight (w.extractLsb' 16 8) (w.extractLsb' 8 8) (w.extractLsb' 0 8))) ∧
    (w &&& 0xF000000#28 = 0x5000000#28 →
      decode (.port w) = .ok (.rdbf (w.extractLsb' 16 8) (w.extractLsb' 8 8) (w.extractLsb' 0 8))) ∧
    (w &&& 0xF000000#28 = 0x6000000#28 →
      decode (.port w) = .ok (.rdac (w.extractLsb' 16 8) (w.extractLsb' 8 8) (w.extractLsb' 0 8))) ∧
    (w &&& 0xF000000#28 = 0#28 ∨ 0x7000000#28 ≤ w →
      decode (.port w) = .error (.reservedOpcode (w.extractLsb' 24 4)))

/-- Words of 95_test_vectors.md and bytes of R100 and section 9, written out. -/
def Obligations.WrittenOutWordsDecode : Prop :=
  decodeTableWord 32 0x1100200 = some (.init 16#8 2#8 0#8) ∧
  decodeTableWord 32 0x3410000 = some (.data 0x41#8 0#8 0#8) ∧
  decodeTableWord 32 0x4FE0000 = some (.backlight 0xFE#8 0#8 0#8) ∧
  decodeTableWord 32 0x8123456 = none ∧
  decode (.sequencer false 0x30#8) = .ok (.kProbe 0#4) ∧
  decode (.sequencer false 0x20#8) = .ok (.kSwitch4 0#4) ∧
  decode (.sequencer true 0x28#8) = .ok (.kFuncset true false) ∧
  decode (.layer 0xCF#8) = .ok (.setddram 0x4F#7) ∧
  decode (.layer 0x0E#8) = .ok (.displayctl true true false) ∧
  decode (.layer 0x78#8) = .ok (.setcgram 0x38#6)

/-- Every transaction the sequencer makes is a row of the table, in the form R100 gives it, and 0x2C is
never among them (U3). -/
def Obligations.SequencerEntriesAreWellFormedRows : Prop :=
  ∀ s : State, Inv s → 1#4 ≤ s.seq → s.seq ≤ 9#4 →
    ∃ (r : SeqRow) (i : Instr), seqRow s = some r ∧
      decode (.sequencer r.len r.val) = .ok i ∧ i.wf = true ∧ r.val ≠ 0x2C#8

/-! ### The Pin Mapper, relocation, the words -/

/-- R132: a declaration is valid exactly when it permutes the eight roles; then each port stands in one
slot, the one its role code names. -/
def Obligations.MapValidExactlyForPermutations : Prop :=
  ∀ (decl : BitVec 32) (pol : Bool) (addr : DevAddr) (s : State),
    ((construct decl pol addr s).mapValid = true ↔
      (∀ k : Port, declCode decl k ≤ 7#4) ∧
        ∀ j k : Port, declCode decl j = declCode decl k → j = k) ∧
    ((construct decl pol addr s).mapValid = true →
      (∀ p : Port, ∃! i : Fin 8, (construct decl pol addr s).pm[i] = p) ∧
      ∀ (k : Port) (i : Fin 8), (declCode decl k).toNat = i.val →
        (construct decl pol addr s).pm[i] = k)

/-- R91: the bits of the physical and the logical word, and that the two directions are inverse. -/
def Obligations.PhysAndLogRelocateAndInvert : Prop :=
  ∀ (pm : PinMap) (l p : Byte), PinMap.IsPerm pm →
    (∀ i : Fin 8, (phys pm l).getLsbD pm[i].val = l.getLsbD i.val) ∧
    (∀ i : Fin 8, (log pm p).getLsbD i.val = p.getLsbD pm[i].val) ∧
    log pm (phys pm l) = l ∧ phys pm (log pm p) = p

/-- R155 (a) to (e), for both words of a phase. -/
def Obligations.EncodedWordsCarryTheirFields : Prop :=
  ∀ (s : State) (rs rw : Bool) (n : Nibble), PinMap.IsPerm s.pm →
    ∀ hi lo : Byte, hi = encWord s rs rw true n → lo = hi &&& ~~~(1#8 <<< s.pm[slotE].val) →
      (log s.pm hi).extractLsb' 1 4 = n ∧ (log s.pm lo).extractLsb' 1 4 = n ∧
      (log s.pm hi).getLsbD 7 = rs ∧ (log s.pm lo).getLsbD 7 = rs ∧
      (log s.pm hi).getLsbD 6 = rw ∧ (log s.pm lo).getLsbD 6 = rw ∧
      (log s.pm hi).getLsbD 5 = true ∧ (log s.pm lo).getLsbD 5 = false ∧
      (log s.pm hi).getLsbD 0 = (s.blOn ^^ decide (s.blPol = .activeLow)) ∧
      (log s.pm lo).getLsbD 0 = (s.blOn ^^ decide (s.blPol = .activeLow)) ∧
      hi ^^^ lo = 1#8 <<< s.pm[slotE].val

/-- R261: the backlight port at its level, every other bit 0. -/
def Obligations.BacklightMaskIsItsLevelAtItsPort : Prop :=
  ∀ (s : State) (k : Port),
    (blMask s).getLsbD k.val =
      (decide (k = s.pm[slotBL]) && (s.blOn ^^ decide (s.blPol = .activeLow)))

/-- R205, R100: the four cases, and 0x2C never. -/
def Obligations.FunctionSetByteByGeometry : Prop :=
  ∀ (rows : Byte) (font : Bool),
    let b := funcsetByte (twoLines rows) (effectiveFont font rows)
    (rows ≤ 1#8 → font = false → b = 0x20#8) ∧ (rows ≤ 1#8 → font = true → b = 0x24#8) ∧
    (2#8 ≤ rows → b = 0x28#8) ∧ b ≠ 0x2C#8

/-- R102, R103: the address counter and the busy flag, from the words read and the map. -/
def Obligations.ReadBackAssembly : Prop :=
  ∀ s : State,
    addressCounter s = (log s.pm s.rdHi).extractLsb' 1 3 ++ (log s.pm s.rdLo).extractLsb' 1 4 ∧
    busyFlag s = s.rdHi.getLsbD s.pm[slotD7].val ∧
    s.rdHi.getLsbD s.pm[slotD7].val = (log s.pm s.rdHi).getLsbD 4

/-! ### The Nibble Protocol Driver -/

/-- R172, row by row, when the call succeeds and the wait ends: an ASSEMBLE row. -/
def Obligations.AssembleRowsOfTheDriver : Prop :=
  ∀ s : State, s.prm.rdSample = .duringEnable → (transportAnswer s).isOk = true → DelaysEnd s →
    ∀ (w : Byte) (next : Npd),
      (s.npd = .assembleHigh ∧ w = encWord s s.rs s.rw true (s.val.extractLsb' 4 4) ∧
        next = (if s.rw then Npd.sampleHigh else Npd.pulseHigh)) ∨
      (s.npd = .assembleLow ∧ w = encWord s s.rs s.rw true (s.val.extractLsb' 0 4) ∧
        next = (if s.rw then Npd.sampleLow else Npd.pulseLow)) →
      npdStep s = .going
        { takeAnswer s with
          word := w
          npd := next
          req := .none
          bus := Memory.write s.bus s.devAddr.toNat w
          ctl := if enableFalls s.pm (Memory.read s.bus s.devAddr.toNat) w then s.ctl.latch else s.ctl
          dlIn := s.dlIn.tail
          trace := s.trace ++ [Event.write w, Event.delay s.prm.tPulse] }

/-- R172, R173: a PULSE row. -/
def Obligations.PulseRowsOfTheDriver : Prop :=
  ∀ s : State, s.prm.rdSample = .duringEnable → (transportAnswer s).isOk = true → DelaysEnd s →
    ∀ (w : Byte) (next : Npd), w = s.word &&& ~~~(1#8 <<< s.pm[slotE].val) →
      (s.npd = .pulseHigh ∧ next = (if s.len then Npd.assembleLow else Npd.done)) ∨
      (s.npd = .pulseLow ∧ next = Npd.done) →
      npdStep s = .going
        { takeAnswer s with
          word := w
          npd := next
          req := .none
          bus := Memory.write s.bus s.devAddr.toNat w
          ctl := if enableFalls s.pm (Memory.read s.bus s.devAddr.toNat) w then s.ctl.latch else s.ctl
          dlIn := s.dlIn.tail
          trace := s.trace ++ [Event.write w, Event.delay s.prm.tSettle] }

/-- R172, R176: a SAMPLE row latches the word read, and no delay follows. -/
def Obligations.SampleRowsOfTheDriver : Prop :=
  ∀ (s : State) (b : Byte), s.prm.rdSample = .duringEnable → transportAnswer s = .ok b →
    (s.npd = .sampleHigh → npdStep s = .going
      { takeAnswer s with rdHi := b, npd := .pulseHigh, req := .none, trace := s.trace ++ [Event.read] }) ∧
    (s.npd = .sampleLow → npdStep s = .going
      { takeAnswer s with rdLo := b, npd := .pulseLow, req := .none, trace := s.trace ++ [Event.read] })

/-- R178: a failed call ends the row, with no delay and no latch written. That `NPD` still names the row in
the state the driver's row ends in is the model's own arrangement (log 34), not R178's: its `NPD <- DONE` is
made by `raise` (R310 (2)), which ends every operation whose call failed, before any step shows the state. -/
def Obligations.FailedCallAbortsTheDriver : Prop :=
  ∀ s : State, transportAnswer s = .fail → s.npd ≠ .done →
    ∃ t : State, npdStep s = .aborted t ∧ (∃ e : Event, e.isCall = true ∧ t.trace = s.trace ++ [e]) ∧
      t.npd = s.npd ∧ t.dlIn = s.dlIn ∧ t.rdHi = s.rdHi ∧ t.rdLo = s.rdLo ∧
      (s.npd = .assembleHigh → t.word = encWord s s.rs s.rw true (highNibble s.val)) ∧
      (s.npd = .assembleLow → t.word = encWord s s.rs s.rw true (lowNibble s.val)) ∧
      (s.npd = .pulseHigh ∨ s.npd = .pulseLow → t.word = s.word &&& ~~~(1#8 <<< s.pm[slotE].val)) ∧
      (t.bus = s.bus ∨ t.bus = Memory.write s.bus s.devAddr.toNat t.word)

/-! ### The operations complete -/

/-- R181: CMD sends its byte to the instruction register and responds OK (the fields outside the framer
are those of logs 7, 9, 12 and 13). -/
def Obligations.CmdSendsItsByte : Prop :=
  ∀ (byte a1 a2 : Byte) (s : State), Ready s → CallsSucceed 4 s → DelaysEnd s →
    exec (.cmd byte a1 a2) s = .next (sent 0x2#4 false byte a1 a2 s)

/-- R182: DATA sends its byte to the data register and responds OK (logs 7, 9, 12, 13). -/
def Obligations.DataSendsItsByte : Prop :=
  ∀ (byte a1 a2 : Byte) (s : State), Ready s → CallsSucceed 4 s → DelaysEnd s →
    exec (.data byte a1 a2) s = .next (sent 0x3#4 true byte a1 a2 s)

/-- R201, R204, R205, R211: the whole sequence (logs 7, 9, 12, 13). -/
def Obligations.InitRunsTheWholeSequence : Prop :=
  ∀ (cols rows font : Byte) (s : State), Ready s → CallsSucceed 28 s → DelaysEnd s →
    exec (.init cols rows font) s = .next
      { takeAnswers 28 s with
        op := 0x1#4
        a0 := cols
        a1 := rows
        a2 := font
        val := 0x0C#8
        rs := false
        rw := false
        len := true
        word := encWord s false false false 0xC#4
        cols := cols
        rows := rows
        font := font.getLsbD 0 && decide (rows ≤ 1#8)
        dispOn := true
        curOn := false
        blinkOn := false
        entryLtr := true
        autoscroll := false
        initOk := true
        seq := 10#4
        status := .ok
        rdata := 0#8
        rspValid := true
        bus := Memory.write s.bus s.devAddr.toNat (encWord s false false false 0xC#4)
        ctl := .expectsHigh
        dlIn := s.dlIn.drop 33
        trace := s.trace ++ initEvents s rows (font.getLsbD 0) ++ [.rsp .ok 0#8] }

/-- R263: BACKLIGHT writes the backlight-only word with its new state (logs 7, 9, 12, 13). -/
def Obligations.BacklightWritesItsWord : Prop :=
  ∀ (on a1 a2 : Byte) (s : State), Ready s → CallsSucceed 1 s → DelaysEnd s →
    let w := blMask { s with blOn := on.getLsbD 0 }
    exec (.backlight on a1 a2) s = .next
      { takeAnswers 1 s with
        op := 0x4#4
        a0 := on
        a1 := a1
        a2 := a2
        blOn := on.getLsbD 0
        word := w
        status := .ok
        rdata := 0#8
        rspValid := true
        bus := Memory.write s.bus s.devAddr.toNat w
        ctl := if atSlot s.pm (Memory.read s.bus s.devAddr.toNat) slotE then s.ctl.latch else s.ctl
        dlIn := s.dlIn.drop 1
        trace := s.trace ++ [Event.write w, Event.delay s.prm.tSettle, .rsp .ok 0#8] }

/-- R234, R235, R103: the busy flag of the first word read (logs 7, 9, 12, 13). -/
def Obligations.RdbfAnswersTheBusyFlag : Prop :=
  ∀ (a0 a1 a2 : Byte) (s : State), Ready s →
    CallsSucceed (if s.prm.bfFullCycle then 6 else 3) s → DelaysEnd s →
    exec (.rdbf a0 a1 a2) s = .next
      (readAnswered (if (log s.pm (highRead s)).getLsbD 4 then 1#8 else 0#8)
        (readDone 0x5#4 a0 a1 a2 s.prm.bfFullCycle s))

/-- R236, R102: the address counter of the two words read (logs 7, 9, 12, 13). -/
def Obligations.RdacAnswersTheAddressCounter : Prop :=
  ∀ (a0 a1 a2 : Byte) (s : State), Ready s → CallsSucceed 6 s → DelaysEnd s →
    exec (.rdac a0 a1 a2) s = .next
      (readAnswered
        (0#1 ++ (log s.pm (highRead s)).extractLsb' 1 3 ++ (log s.pm (lowRead s)).extractLsb' 1 4)
        (readDone 0x6#4 a0 a1 a2 true s))

/-- R238: the round trip, from any words whose data lines carry the busy flag and the counter; and the
words of the encode logic in reverse are such words. -/
def Obligations.ReadsReverseTheEncoding : Prop :=
  ∀ (a : BitVec 7) (f x y z : Bool) (n : Nibble) (b0 b1 b2 : Byte) (s : State), Ready s → DelaysEnd s →
    (log s.pm (highRead s)).extractLsb' 1 4 = BitVec.ofBool f ++ a.extractLsb' 4 3 →
    (CallsSucceed 6 s → (log s.pm (lowRead s)).extractLsb' 1 4 = a.extractLsb' 0 4 →
      ∃ t, exec (.rdac b0 b1 b2) s = .next t ∧ t.top = .idle ∧ t.status = .ok ∧ t.rdata = 0#1 ++ a) ∧
    (CallsSucceed (if s.prm.bfFullCycle then 6 else 3) s →
      ∃ t, exec (.rdbf b0 b1 b2) s = .next t ∧ t.top = .idle ∧ t.status = .ok ∧
        t.rdata = 0#7 ++ BitVec.ofBool f) ∧
    (log s.pm (phys s.pm (lword x y z n))).extractLsb' 1 4 = n

/-- R100, R204: the sequencer's single nibbles, run alone (log 1). -/
def Obligations.SequencerNibbleRowsSend : Prop :=
  ∀ (x : Nibble) (s : State), Ready s → CallsSucceed 2 s → DelaysEnd s →
    exec (.kProbe x) s = .next (nibbleSent 0x3#4 x
      (if s.seq = 1#4 then some s.prm.tProbe1 else if s.seq = 2#4 then some s.prm.tProbe2
        else if s.seq = 3#4 then some s.prm.tProbe3 else none) s) ∧
    exec (.kSwitch4 x) s = .next (nibbleSent 0x2#4 x none s)

/-- R100, R204: the sequencer's full bytes, run alone (log 1). -/
def Obligations.SequencerByteRowsSend : Prop :=
  ∀ (n f : Bool) (s : State), Ready s → CallsSucceed 4 s → DelaysEnd s →
    exec (.kFuncset n f) s = .next
      (seqByteSent ((if n then 0x08#8 else 0#8) ||| (if f then 0x04#8 else 0#8) ||| 0x20#8) none s) ∧
    exec .kDisplayOff s = .next (seqByteSent 0x08#8 none s) ∧
    exec .kClear s = .next (seqByteSent 0x01#8 (some s.prm.tClear) s) ∧
    exec .kEntryLtr s = .next (seqByteSent 0x06#8 none s) ∧
    exec .kDisplayOn s = .next (seqByteSent 0x0C#8 none s)

/-- R272, R273: CLEAR and HOME, with the host-side wait (the layer's rows as instructions: logs 2, 17). -/
def Obligations.ClearAndHomeSendAndWait : Prop :=
  ∀ s : State, Ready s → CallsSucceed 4 s → DelaysEnd s →
    exec .clear s = .next
      { layerSent 0x01#8 s with
        layerOut := s.layerOut ++ [LayerEvent.issue 0x2010000#28, .wait s.prm.tClear.toNat] } ∧
    exec .home s = .next
      { layerSent 0x02#8 s with
        layerOut := s.layerOut ++ [LayerEvent.issue 0x2020000#28, .wait s.prm.tClear.toNat] }

/-- R275, R278, R279: the rows of the layer that write no shadow flag (logs 2, 17). -/
def Obligations.AddressAndShiftRowsSend : Prop :=
  ∀ (a : BitVec 7) (g : BitVec 6) (r : Bool) (s : State), Ready s → CallsSucceed 4 s → DelaysEnd s →
    exec (.setddram a) s = .next (layerSent (0x80#8 ||| (0#1 ++ a)) s) ∧
    exec (.setcgram g) s = .next (layerSent (0x40#8 ||| (0#2 ++ g)) s) ∧
    exec (.shift r) s = .next (layerSent (if r then 0x1C#8 else 0x18#8) s)

/-- R276, R277, R271: the rows that write shadow flags, then send them all (logs 2, 17). -/
def Obligations.FlagRowsWriteAndSend : Prop :=
  ∀ (d c b i a : Bool) (s : State), Ready s → CallsSucceed 4 s → DelaysEnd s →
    exec (.displayctl d c b) s = .next
      { layerSent (0x08#8 ||| (if d then 4#8 else 0#8) ||| (if c then 2#8 else 0#8) |||
          (if b then 1#8 else 0#8)) s with dispOn := d, curOn := c, blinkOn := b } ∧
    exec (.entrymode i a) s = .next
      { layerSent (0x04#8 ||| (if i then 2#8 else 0#8) ||| (if a then 1#8 else 0#8)) s with
        entryLtr := i, autoscroll := a }

/-- R274, R275: SETCURSOR clamps and sends the DDRAM address; row 4 and more is refused (log 18). -/
def Obligations.SetCursorClampsAndAddresses : Prop :=
  ∀ (col row : Byte) (s : State),
    let r : Byte := if s.rows = 0#8 then 0#8 else if s.rows ≤ row then s.rows - 1#8 else row
    let c : Byte := if s.cols = 0#8 then 0#8 else if s.cols ≤ col then s.cols - 1#8 else col
    (r = 0#8 → runCall (.setCursor col row) s = exec (.setddram (c.extractLsb' 0 7)) s) ∧
    (r = 1#8 → runCall (.setCursor col row) s = exec (.setddram ((0x40#8 + c).extractLsb' 0 7)) s) ∧
    (r = 2#8 → runCall (.setCursor col row) s = exec (.setddram ((s.cols + c).extractLsb' 0 7)) s) ∧
    (r = 3#8 →
      runCall (.setCursor col row) s = exec (.setddram ((0x40#8 + s.cols + c).extractLsb' 0 7)) s) ∧
    (4#8 ≤ r → runCall (.setCursor col row) s = .refused (.rowUndefined r))

/-! ### Failures -/

/-- R178, R208, R233, R307: when the call number `j` of an instruction fails, the trace is the prefix up to
and including that call, and the response is `TRANSPORT_ERROR` with data 0. A sequencer's row run alone fails
as INIT does and leaves `SEQ` (log 1); the layer makes no wait after a failed command (R270, log 17). -/
def Obligations.FailedCallEndsTheOperation : Prop :=
  ∀ (i : Instr) (j : Nat) (s : State), Ready s → DelaysEnd s →
    j < calls (successEvents s i) → CallsSucceed j s → answer j s = .fail →
    ∃ t : State, exec i s = .next t ∧
      t.trace = s.trace ++ cutAtCall j (successEvents s i) ++ [.rsp .transportError 0#8] ∧
      (writtenWords (cutAtCall j (successEvents s i))).getLast? = some t.word ∧
      t.status = .transportError ∧ t.rdata = 0#8 ∧ t.rspValid = true ∧ t.top = .idle ∧
      t.npd = .done ∧ t.req = .none ∧
      (IsSequencerRow i → t.initOk = false ∧ t.seq = s.seq) ∧
      (IsLayerRow i → t.initOk = s.initOk) ∧
      (∀ v, encode i = .layer v →
        t.layerOut = s.layerOut ++ [LayerEvent.issue (0x2#4 ++ v ++ 0#8 ++ 0#8)]) ∧
      (¬ IsLayerRow i → t.layerOut = s.layerOut)

/-- R208: the registers after an INIT whose write number `j` failed (that the controller is then unknown is
log 13). -/
def Obligations.FailedInitLeavesItsStep : Prop :=
  ∀ (cols rows font : Byte) (j : Nat) (s : State), Ready s → DelaysEnd s → j < 28 →
    CallsSucceed j s → answer j s = .fail →
    ∃ t : State, exec (.init cols rows font) s = .next t ∧ t.initOk = false ∧
      t.seq.toNat = seqOfWrite j ∧ t.cols = cols ∧ t.rows = rows ∧
      t.font = (font.getLsbD 0 && decide (rows ≤ 1#8)) ∧ t.blOn = s.blOn ∧ t.ctl = .unknown

/-- R263: after a failed write `BL_ON` holds the requested value. -/
def Obligations.FailedBacklightKeepsTheRequest : Prop :=
  ∀ (on a1 a2 : Byte) (s : State), Ready s → answer 0 s = .fail →
    ∃ t : State, exec (.backlight on a1 a2) s = .next t ∧ t.blOn = on.getLsbD 0 ∧
      t.word = blMask { s with blOn := on.getLsbD 0 } ∧ t.status = .transportError ∧
      t.val = s.val ∧ t.rs = s.rs ∧ t.rw = s.rw ∧ t.len = s.len ∧ t.seq = s.seq ∧
      t.initOk = s.initOk ∧ t.dlIn = s.dlIn

/-- R134, R305, R307: with an invalid map every command word, a reserved one too, responds
`CONFIG_ERROR` and touches nothing but the operand and response latches; and only a reset with a valid
declaration leaves that condition. -/
def Obligations.InvalidMapRefusesEveryCommand : Prop :=
  (∀ (w : CmdWord) (s : State), Inv s → s.top = .idle → s.mapValid = false →
    fetchStep (.port w) s = .next
      { s with
        op := w.extractLsb' 24 4
        a0 := w.extractLsb' 16 8
        a1 := w.extractLsb' 8 8
        a2 := w.extractLsb' 0 8
        status := .configError
        rdata := 0#8
        rspValid := true
        trace := s.trace ++ [.rsp .configError 0#8] }) ∧
  (∀ s t : State, s.mapValid = false → NoResetNext s → step s = .next t → t.mapValid = false) ∧
  ∀ (decl : BitVec 32) (pol : Bool) (addr : DevAddr) (rest : List HostEvent) (s t : State),
    s.hostIn = .reset decl pol addr :: rest → step s = .next t → t.mapValid = true →
    (∀ k : Port, declCode decl k ≤ 7#4) ∧ ∀ j k : Port, declCode decl j = declCode decl k → j = k

/-- R98, R306: a reserved opcode with a valid map. -/
def Obligations.ReservedOpcodeIsIllegal : Prop :=
  ∀ (w : CmdWord) (s : State), Ready s →
    (w.extractLsb' 24 4 = 0#4 ∨ 7#4 ≤ w.extractLsb' 24 4) →
    fetchStep (.port w) s = .next
      { s with
        op := w.extractLsb' 24 4
        a0 := w.extractLsb' 16 8
        a1 := w.extractLsb' 8 8
        a2 := w.extractLsb' 0 8
        status := .illegalOp
        rdata := 0#8
        rspValid := true
        trace := s.trace ++ [.rsp .illegalOp 0#8] }

/-- R310: what raising does, and the additions of a failed INIT (free shadow flags: log 11; the controller
unknown: log 13). -/
def Obligations.RaiseWritesTheResponseAlone : Prop :=
  ∀ (x : Status) (s : State),
    raise x s =
      { s with
        npd := .done
        req := .none
        status := x
        rdata := 0#8
        rspValid := true
        top := .idle
        trace := s.trace ++ [Event.rsp x 0#8] } ∧
    ∃ d c b l a : Bool, ∃ n : Nat,
      raiseInitFailed s =
        { raise .transportError s with
          initOk := false
          dispOn := d
          curOn := c
          blinkOn := b
          entryLtr := l
          autoscroll := a
          ctl := .unknown
          free := n }

/-- R64, R361, U10: a transport call that is never answered, and a wait that never ends, leave the framer
waiting in the step that made it, with no response, and the next step is the named stuck state (log 8). -/
def Obligations.SilentCollaboratorIsStuck : Prop :=
  (∀ (i : Instr) (j : Nat) (s : State), Ready s → DelaysEnd s →
    j < calls (successEvents s i) → CallsSucceed j s → answer j s = .never →
    ∃ t : State, exec i s = .next t ∧ t.top = .busy ∧ tpValid t = true ∧ t.rspValid = false ∧
      t.trace = s.trace ++ cutAtCall j (successEvents s i) ∧
      (NoResetNext t → step t = .fault .transportSilent)) ∧
  ∀ (i : Instr) (k : Nat) (s : State), Ready s → FirstSilentDelay k s →
    k < ((successEvents s i).filter Event.isDelay).length →
    CallsSucceed (calls (cutAtDelay k (successEvents s i))) s →
    ∃ t : State, exec i s = .next t ∧ t.top = .busy ∧ dlValid t = true ∧ t.rspValid = false ∧
      t.trace = s.trace ++ cutAtDelay k (successEvents s i) ∧
      t.trace.getLast? = some (.delay (dlUs t)) ∧
      (NoResetNext t → step t = .fault .delaySilent)

/-! ### Frames -/

/-- CMD and DATA, whatever the answers: the registers they may write (R181, R182), and one byte of
memory. -/
def Obligations.FrameOfCmdAndData : Prop :=
  ∀ (byte a1 a2 : Byte) (i : Instr) (s t : State), i = .cmd byte a1 a2 ∨ i = .data byte a1 a2 →
    exec i s = .next t →
    t = { s with
      op := t.op, a0 := t.a0, a1 := t.a1, a2 := t.a2, val := t.val, rs := t.rs, rw := t.rw,
      len := t.len, word := t.word, status := t.status, rdata := t.rdata, top := t.top, npd := t.npd,
      rspValid := t.rspValid, req := t.req, bus := t.bus, ctl := t.ctl, tpIn := t.tpIn,
      dlIn := t.dlIn, trace := t.trace, free := t.free } ∧
    (s.mapValid = false → t.bus = s.bus) ∧
    ∀ a : Nat, a ≠ s.devAddr.toNat → Memory.read t.bus a = Memory.read s.bus a

/-- RDBF and RDAC: the same and the read latches (R234, R236). -/
def Obligations.FrameOfReads : Prop :=
  ∀ (a0 a1 a2 : Byte) (i : Instr) (s t : State), i = .rdbf a0 a1 a2 ∨ i = .rdac a0 a1 a2 →
    exec i s = .next t →
    t = { s with
      op := t.op, a0 := t.a0, a1 := t.a1, a2 := t.a2, val := t.val, rs := t.rs, rw := t.rw,
      len := t.len, word := t.word, rdHi := t.rdHi, rdLo := t.rdLo, status := t.status,
      rdata := t.rdata, top := t.top, npd := t.npd, rspValid := t.rspValid, req := t.req,
      bus := t.bus, ctl := t.ctl, tpIn := t.tpIn, dlIn := t.dlIn, trace := t.trace,
      free := t.free } ∧
    (s.mapValid = false → t.bus = s.bus) ∧
    ∀ a : Nat, a ≠ s.devAddr.toNat → Memory.read t.bus a = Memory.read s.bus a

/-- BACKLIGHT: no transfer operand, no sequencer state, no `INIT_OK` (R263). -/
def Obligations.FrameOfBacklight : Prop :=
  ∀ (on a1 a2 : Byte) (s t : State), exec (.backlight on a1 a2) s = .next t →
    t = { s with
      op := t.op, a0 := t.a0, a1 := t.a1, a2 := t.a2, blOn := t.blOn, word := t.word,
      status := t.status, rdata := t.rdata, top := t.top, npd := t.npd, rspValid := t.rspValid,
      req := t.req, bus := t.bus, ctl := t.ctl, tpIn := t.tpIn, dlIn := t.dlIn, trace := t.trace,
      free := t.free } ∧
    (s.mapValid = false → t.bus = s.bus) ∧
    ∀ a : Nat, a ≠ s.devAddr.toNat → Memory.read t.bus a = Memory.read s.bus a

/-- INIT: the registers R201 and R208 name; `BL_ON` is not among them. -/
def Obligations.FrameOfInit : Prop :=
  ∀ (cols rows font : Byte) (s t : State), exec (.init cols rows font) s = .next t →
    t = { s with
      op := t.op, a0 := t.a0, a1 := t.a1, a2 := t.a2, val := t.val, rs := t.rs, rw := t.rw,
      len := t.len, word := t.word, cols := t.cols, rows := t.rows, font := t.font,
      dispOn := t.dispOn, curOn := t.curOn, blinkOn := t.blinkOn, entryLtr := t.entryLtr,
      autoscroll := t.autoscroll, initOk := t.initOk, seq := t.seq, status := t.status,
      rdata := t.rdata, top := t.top, npd := t.npd, rspValid := t.rspValid, req := t.req,
      bus := t.bus, ctl := t.ctl, tpIn := t.tpIn, dlIn := t.dlIn, trace := t.trace,
      free := t.free } ∧
    (s.mapValid = false → t.bus = s.bus) ∧
    ∀ a : Nat, a ≠ s.devAddr.toNat → Memory.read t.bus a = Memory.read s.bus a

/-- The sequencer's rows run alone (log 1): no operand latch, no geometry, no `SEQ`, no `BL_ON`. -/
def Obligations.FrameOfSequencerRows : Prop :=
  ∀ (x : Nibble) (n f : Bool) (i : Instr) (s t : State),
    i ∈ [.kProbe x, .kSwitch4 x, .kFuncset n f, .kDisplayOff, .kClear, .kEntryLtr, .kDisplayOn] →
    exec i s = .next t →
    t = { s with
      val := t.val, rs := t.rs, rw := t.rw, len := t.len, word := t.word,
      dispOn := t.dispOn, curOn := t.curOn, blinkOn := t.blinkOn, entryLtr := t.entryLtr,
      autoscroll := t.autoscroll, initOk := t.initOk, status := t.status, rdata := t.rdata,
      top := t.top, npd := t.npd, rspValid := t.rspValid, req := t.req, bus := t.bus, ctl := t.ctl,
      tpIn := t.tpIn, dlIn := t.dlIn, trace := t.trace, free := t.free } ∧
    (s.mapValid = false → t.bus = s.bus) ∧
    ∀ a : Nat, a ≠ s.devAddr.toNat → Memory.read t.bus a = Memory.read s.bus a

/-- The layer's rows (logs 2, 17): CMD's registers, the layer's own output, and the shadow flags of R276 and R277. -/
def Obligations.FrameOfLayerRows : Prop :=
  ∀ (a : BitVec 7) (g : BitVec 6) (d c b : Bool) (i : Instr) (s t : State),
    i ∈ [.clear, .home, .setddram a, .displayctl d c b, .entrymode d c, .shift d, .setcgram g] →
    exec i s = .next t →
    t = { s with
      op := t.op, a0 := t.a0, a1 := t.a1, a2 := t.a2, val := t.val, rs := t.rs, rw := t.rw,
      len := t.len, word := t.word, dispOn := t.dispOn, curOn := t.curOn, blinkOn := t.blinkOn,
      entryLtr := t.entryLtr, autoscroll := t.autoscroll, status := t.status, rdata := t.rdata,
      top := t.top, npd := t.npd, rspValid := t.rspValid, req := t.req, bus := t.bus, ctl := t.ctl,
      tpIn := t.tpIn, dlIn := t.dlIn, trace := t.trace, layerOut := t.layerOut, free := t.free } ∧
    (i ∈ [.clear, .home, .setddram a, .shift d, .setcgram g] →
      t.dispOn = s.dispOn ∧ t.curOn = s.curOn ∧ t.blinkOn = s.blinkOn ∧ t.entryLtr = s.entryLtr ∧
      t.autoscroll = s.autoscroll) ∧
    (i = .displayctl d c b → t.dispOn = d ∧ t.curOn = c ∧ t.blinkOn = b ∧
      t.entryLtr = s.entryLtr ∧ t.autoscroll = s.autoscroll) ∧
    (i = .entrymode d c → t.entryLtr = d ∧ t.autoscroll = c ∧ t.dispOn = s.dispOn ∧
      t.curOn = s.curOn ∧ t.blinkOn = s.blinkOn) ∧
    (s.mapValid = false → t.bus = s.bus) ∧
    ∀ a : Nat, a ≠ s.devAddr.toNat → Memory.read t.bus a = Memory.read s.bus a

/-! ### Whole-machine rules -/

/-- R264: every word written carries the backlight's level, and `BL_ON` changes in BACKLIGHT alone. -/
def Obligations.BacklightLevelInEveryWord : Prop :=
  ∀ (i : Instr) (s t : State), Inv s → s.mapValid = true → exec i s = .next t →
    (∃ ev : List Event, t.trace = s.trace ++ ev ∧
      ∀ w : Byte, Event.write w ∈ ev →
        w.getLsbD s.pm[slotBL].val = (t.blOn ^^ decide (s.blPol = .activeLow))) ∧
    ((∀ on a1 a2, i ≠ .backlight on a1 a2) → t.blOn = s.blOn)

/-- R183 (c), R213 (c), R239, R263: the register-select and read/write levels of every word. -/
def Obligations.ControlLinesOfEveryWord : Prop :=
  ∀ (i : Instr) (s t : State), Inv s → s.mapValid = true → exec i s = .next t →
    ∃ ev : List Event, t.trace = s.trace ++ ev ∧
      ∀ w : Byte, Event.write w ∈ ev →
        ((∀ b a1 a2, i ≠ .data b a1 a2) → atSlot s.pm w slotRS = false) ∧
        (∀ b a1 a2, i = .data b a1 a2 → atSlot s.pm w slotRS = true) ∧
        ((∀ a0 a1 a2, i ≠ .rdbf a0 a1 a2 ∧ i ≠ .rdac a0 a1 a2) → atSlot s.pm w slotRW = false) ∧
        (∀ a0 a1 a2, i = .rdbf a0 a1 a2 ∨ i = .rdac a0 a1 a2 →
          atSlot s.pm w slotRW = true ∧ (log s.pm w).extractLsb' 1 4 = 0xF#4)

/-- R54: one response for an accepted command, after its last event, and none while it still waits. -/
def Obligations.OneResponsePerCommand : Prop :=
  ∀ (w : CmdWord) (s t : State), fetchStep (.port w) s = .next t →
    ∃ ev : List Event, (∀ e ∈ ev, e.isResponse = false) ∧
      ((t.top = .idle ∧ t.rspValid = true ∧ t.trace = s.trace ++ ev ++ [Event.rsp t.status t.rdata]) ∨
        (t.top = .busy ∧ t.rspValid = false ∧ t.trace = s.trace ++ ev))

/-- R79: a delay of at least the rule's length after every write that was answered, none after a read. -/
def Obligations.EveryWriteIsFollowedByItsDelay : Prop :=
  ∀ (i : Instr) (s t : State), Inv s → s.mapValid = true → exec i s = .next t →
    ∃ ev : List Event, t.trace = s.trace ++ ev ∧ spaced s ev = true

/-- R135: nothing but reset writes the configuration registers; and no step but a reset writes the
parameters, which as a field of State are the model's choice (log 6). -/
def Obligations.ConfigurationIsImmutable : Prop :=
  ∀ s t : State, NoResetNext s → step s = .next t →
    t.pm = s.pm ∧ t.mapValid = s.mapValid ∧ t.blPol = s.blPol ∧ t.devAddr = s.devAddr ∧ t.prm = s.prm

/-- R321, R41: what changes the usability condition. The sequencer's rows run alone are the model's choice
(log 1): one that completes, waits for ever, or meets an invalid map leaves the condition; a failed one
counts as a failed INIT. -/
def Obligations.ConditionChangesInInitAndFailedSequencerRows : Prop :=
  ∀ (i : Instr) (s t : State), exec i s = .next t →
    ((∀ c r f, i ≠ .init c r f) → ¬ IsSequencerRow i → condition t = condition s) ∧
    (IsSequencerRow i →
      (t.rspValid = false ∧ condition t = condition s) ∨
      (s.mapValid = false ∧ t.status = .configError ∧ condition t = condition s) ∨
      (s.mapValid = true ∧ t.rspValid = true ∧ t.top = .idle ∧ t.status = .transportError ∧
        condition t = .uninitialised))

/-- R321, R202: INIT on a valid map ends `READY` when it responds OK and `UNINITIALISED` otherwise,
waiting for ever included. -/
def Obligations.InitDecidesReadiness : Prop :=
  ∀ (c r f : Byte) (s t : State), s.mapValid = true → exec (.init c r f) s = .next t →
    (t.top = .idle ∧ t.status = .ok ∧ condition t = .ready) ∨
    (t.top = .idle ∧ t.status = .transportError ∧ condition t = .uninitialised) ∨
    (t.top = .busy ∧ condition t = .uninitialised)

/-- R213, R207, R372: the events INIT appends to the trace when every write succeeds: (a) their counts,
(b) the first of them, (c) register-select and read/write, (d) the nibbles latched, (e) the backlight port,
(f) `INIT_OK`, and the total wait; and the count of writes when write number `j` fails. -/
def Obligations.InitEventsCountAndNibbles : Prop :=
  ∀ (cols rows font : Byte) (s : State), Ready s → DelaysEnd s →
    (CallsSucceed 28 s → ∃ (t : State) (ev : List Event), exec (.init cols rows font) s = .next t ∧
      t.trace = s.trace ++ ev ++ [.rsp .ok 0#8] ∧
      (ev.filter Event.isWrite).length = 28 ∧ Event.read ∉ ev ∧ (ev.filter Event.isDelay).length = 33 ∧
      ev.head? = some (.delay s.prm.tPowerOn) ∧
      (∀ w ∈ writtenWords ev, atSlot s.pm w slotRS = false ∧ atSlot s.pm w slotRW = false ∧
        atSlot s.pm w slotBL = (s.blOn ^^ decide (s.blPol = .activeLow))) ∧
      enableLowNibbles s.pm ev =
        [3#4, 3#4, 3#4, 2#4, 2#4, if 2#8 ≤ rows then 8#4 else if font.getLsbD 0 then 4#4 else 0#4,
          0#4, 8#4, 0#4, 1#4, 0#4, 6#4, 0#4, 0xC#4] ∧
      (ev.map Event.wait).sum = s.prm.tPowerOn.toNat + s.prm.tProbe1.toNat + s.prm.tProbe2.toNat +
        s.prm.tProbe3.toNat + s.prm.tClear.toNat + 14 * s.prm.tPulse.toNat + 14 * s.prm.tSettle.toNat ∧
      t.initOk = true) ∧
    ∀ j < 28, CallsSucceed j s → answer j s = .fail →
      ∃ (t : State) (ev : List Event), exec (.init cols rows font) s = .next t ∧
        t.trace = s.trace ++ ev ++ [.rsp .transportError 0#8] ∧
        (ev.filter Event.isWrite).length = j + 1 ∧ ev.head? = some (.delay s.prm.tPowerOn) ∧
        t.initOk = false

/-- R96, U9: the argument bits an operation ignores reach the operand latches and nothing else. -/
def Obligations.IgnoredArgumentBitsChangeNothing : Prop :=
  ∀ (a b c d e f : Byte) (i j : Instr) (s t : State),
    (i = .cmd a b c ∧ j = .cmd a d e) ∨ (i = .data a b c ∧ j = .data a d e) ∨
    (i = .backlight a b c ∧ j = .backlight d e f ∧ a.getLsbD 0 = d.getLsbD 0) ∨
    (i = .rdbf a b c ∧ j = .rdbf d e f) ∨ (i = .rdac a b c ∧ j = .rdac d e f) ∨
    (i = .init a b c ∧ j = .init a b d ∧ c.getLsbD 0 = d.getLsbD 0) →
    exec i s = .next t →
    ∃ x y z : Byte, exec j s = .next { t with a0 := x, a1 := y, a2 := z }

/-- R232: a read operation's answer depends on the data-line ports of the words read alone. -/
def Obligations.ReadsIgnoreTheOtherPorts : Prop :=
  ∀ (a0 a1 a2 : Byte) (i : Instr) (s s' t t' : State), i = .rdbf a0 a1 a2 ∨ i = .rdac a0 a1 a2 →
    Ready s → Ready s' → s.pm = s'.pm → s.prm = s'.prm → CallsSucceed 6 s → CallsSucceed 6 s' →
    DelaysEnd s → DelaysEnd s' →
    (log s.pm (highRead s)).extractLsb' 1 4 = (log s.pm (highRead s')).extractLsb' 1 4 →
    (log s.pm (lowRead s)).extractLsb' 1 4 = (log s.pm (lowRead s')).extractLsb' 1 4 →
    exec i s = .next t → exec i s' = .next t' → t.status = t'.status ∧ t.rdata = t'.rdata

/-- R72, X11 to X14: what a DATA does to the controller's nibble phase (log 13), by the call that fails; a
failed write may or may not have landed (log 10). -/
def Obligations.AbortedByteLosesThePhase : Prop :=
  ∀ (byte a1 a2 : Byte) (j : Nat) (s t : State), Ready s → DelaysEnd s → CallsSucceed j s →
    answer j s = .fail → exec (.data byte a1 a2) s = .next t →
    atSlot s.pm (Memory.read s.bus s.devAddr.toNat) slotE = false →
    (j = 0 → t.ctl = s.ctl) ∧ (j = 1 → t.ctl = s.ctl ∨ t.ctl = s.ctl.latch) ∧
    (j = 2 → t.ctl = s.ctl.latch) ∧ (j = 3 → t.ctl = s.ctl.latch ∨ t.ctl = s.ctl)

/-! ### State, reset, step -/

/-- The machine after reset meets the invariant. -/
def Obligations.InvHoldsAtReset : Prop := Inv State.reset

/-- Every step keeps the invariant, from every state that meets it. -/
def Obligations.InvIsKeptByEveryStep : Prop :=
  ∀ s t : State, Inv s → step s = .next t → Inv t

/-- R37, R172, R201: the small steps, from the accepted command to the response or to a silent
collaborator, reach what the operation's meaning answers, for every command word. -/
def Obligations.SmallStepsReachTheMeaning : Prop :=
  ∀ (w : CmdWord) (s t : State), Inv s → s.top = .idle → fetchStep (.port w) s = .next t →
    ∃ n : Nat, smallRun n (begin w s) = t

/-- A step runs the decoded instruction: an idle framer, the word next in its input (log 16). -/
def Obligations.StepRunsTheDecodedInstruction : Prop :=
  ∀ (f : Fetched) (i : Instr) (rest : List HostEvent) (s : State), s.top = .idle →
    s.hostIn = .fetch f :: rest → decode f = .ok i → step s = exec i { s with hostIn := rest }

/-- R53: a busy framer holds a command off; it stays next in the input. -/
def Obligations.BusyFramerHoldsCommandsOff : Prop :=
  ∀ s t : State, s.top = .busy → NoResetNext s → step s = .next t →
    cmdReady s = false ∧ t.hostIn = s.hostIn

/-- R58, R341, R343: reset from any state, an operation running or not. What PM holds after an invalid
declaration, to which R58 gives no value, is the model's choice (log 14). -/
def Obligations.ResetLeavesTheseValues : Prop :=
  ∀ (decl : BitVec 32) (pol : Bool) (addr : DevAddr) (rest : List HostEvent) (s : State),
    s.hostIn = .reset decl pol addr :: rest →
    ∃ t : State, step s = .next t ∧ t.hostIn = rest ∧ t.trace = s.trace ∧
      t.pm = (buildMap decl).pm ∧ t.mapValid = !(buildMap decl).bad ∧
      t.blPol = (if pol then Polarity.activeLow else Polarity.activeHigh) ∧ t.devAddr = addr ∧
      t.blOn = s.prm.blReset ∧ t.initOk = false ∧ t.top = .idle ∧ t.seq = 0#4 ∧ t.npd = .done ∧
      t.rspValid = false ∧ tpValid t = false ∧ dlValid t = false ∧ cmdReady t = true

/-- R72, R350: a host that keeps its rules keeps the controller aligned. From an idle framer, with whole
read cycles (`BF_FULL_CYCLE`; R235), whatever the collaborators answer: where the controller's interface
(log 13) and the enable line were as R47 has them after INIT, they are so after the host's next input too,
unless the host now owes an INIT (R353, R360) or the framer is no longer `READY` (R357). That power is lost
between operations alone is log 31; that the controller latches at the declared enable port, whatever the
real wiring is, is log 32, so of a real display this says something under `WiringIsReal` (R358) alone. -/
def Obligations.HostRulesKeepTheControllerAligned : Prop :=
  ∀ (bound : Nat) (d : Duties) (s t : State), Inv s → s.top = .idle → s.prm.bfFullCycle = true →
    hostInOrder bound d s = true → Aligned d s → step s = .next t → t.top = .idle →
    Aligned (d.step s t) t

/-- The state after reset is what construction makes of the inputs of program P1 (log 4). -/
def Obligations.ResetStateIsConstructed : Prop :=
  construct 0x43210567#32 false 0x27#7 State.reset = State.reset
end

