-- ==== Sys2Proof/Laws/Dispatch.lean ====
section
/-! SUPPORT. What every arm of `exec` has in common. -/

namespace Sys2Proof.Machine

/-- No instruction stops: `exec` answers a next state for every instruction in every state. -/
theorem exec_next (i : Instr) (s : State) : ∃ t, exec i s = .next t := by
  cases i <;> exact ⟨_, rfl⟩

end Sys2Proof.Machine
end

