-- ==== Sys2Proof/Laws/Memory.lean ====
section
/-! SUPPORT. The laws of the memory of expander latches. -/

namespace Sys2Proof.Machine

@[simp] theorem Memory.read_nil (a : Nat) : Memory.read [] a = Config.latchAtPowerOn := rfl

theorem Memory.read_cons (k : Nat) (v : Byte) (m : Memory) (a : Nat) :
    Memory.read ((k, v) :: m) a = if k = a then v else Memory.read m a := rfl

theorem Memory.wfFrom_cons (lo k : Nat) (v : Byte) (m : Memory) :
    Memory.wfFrom lo ((k, v) :: m) = true ↔
      lo ≤ k ∧ v ≠ Config.latchAtPowerOn ∧ Memory.wfFrom (k + 1) m = true := by
  simp [Memory.wfFrom, and_assoc]

/-- A write leaves every other address alone, whatever the list's form. -/
theorem Memory.read_write_other {m : Memory} {a b : Nat} (v : Byte) (h : b ≠ a) :
    Memory.read (Memory.write m a v) b = Memory.read m b := by
  induction m with
  | nil =>
    unfold Memory.write
    split
    · rfl
    · simp [Memory.read_cons, Ne.symm h]
  | cons c m ih =>
    obtain ⟨k, x⟩ := c
    unfold Memory.write
    split_ifs with h1 h2 h3 h4
    · rfl
    · simp [Memory.read_cons, Ne.symm h]
    · subst h3; simp [Memory.read_cons, Ne.symm h]
    · subst h3; simp [Memory.read_cons, Ne.symm h]
    · simp [Memory.read_cons, ih]

/-- An address below the bound of a canonical list is not listed. -/
theorem Memory.read_below {lo : Nat} {m : Memory} {a : Nat} (h : Memory.wfFrom lo m = true)
    (ha : a < lo) : Memory.read m a = Config.latchAtPowerOn := by
  induction m generalizing lo with
  | nil => rfl
  | cons c m ih =>
    obtain ⟨k, x⟩ := c
    obtain ⟨hk, -, hm⟩ := (Memory.wfFrom_cons lo k x m).1 h
    rw [Memory.read_cons, if_neg (by omega), ih hm (by omega)]

/-- A read after a write to the same address gives the value written. -/
theorem Memory.read_write_same_from {lo : Nat} {m : Memory} (a : Nat) (v : Byte)
    (h : Memory.wfFrom lo m = true) : Memory.read (Memory.write m a v) a = v := by
  induction m generalizing lo with
  | nil =>
    unfold Memory.write
    split
    · rw [Memory.read_nil]; exact Eq.symm ‹_›
    · simp [Memory.read_cons]
  | cons c m ih =>
    obtain ⟨k, x⟩ := c
    obtain ⟨-, -, hm⟩ := (Memory.wfFrom_cons lo k x m).1 h
    unfold Memory.write
    split_ifs with h1 h2 h3 h4
    · rw [Memory.read_cons, if_neg (by omega), Memory.read_below hm (by omega)]; exact h2.symm
    · simp [Memory.read_cons]
    · rw [Memory.read_below hm (by omega)]; exact h4.symm
    · simp [Memory.read_cons]
    · rw [Memory.read_cons, if_neg (by omega), ih hm]

theorem Memory.wfFrom_mono {lo lo' : Nat} {m : Memory} (h : Memory.wfFrom lo m = true)
    (hl : lo' ≤ lo) : Memory.wfFrom lo' m = true := by
  cases m with
  | nil => rfl
  | cons c m =>
    obtain ⟨k, x⟩ := c
    rw [Memory.wfFrom_cons] at h ⊢
    exact ⟨by omega, h.2⟩

theorem Memory.wfFrom_write {lo : Nat} {m : Memory} {a : Nat} (v : Byte)
    (h : Memory.wfFrom lo m = true) (ha : lo ≤ a) :
    Memory.wfFrom lo (Memory.write m a v) = true := by
  induction m generalizing lo with
  | nil =>
    unfold Memory.write
    split
    · rfl
    · exact (Memory.wfFrom_cons ..).2 ⟨ha, ‹_›, rfl⟩
  | cons c m ih =>
    obtain ⟨k, x⟩ := c
    obtain ⟨hk, hx, hm⟩ := (Memory.wfFrom_cons lo k x m).1 h
    unfold Memory.write
    split_ifs with h1 h2 h3 h4
    · exact h
    · exact (Memory.wfFrom_cons ..).2 ⟨ha, h2, (Memory.wfFrom_cons ..).2 ⟨by omega, hx, hm⟩⟩
    · exact Memory.wfFrom_mono hm (by omega)
    · exact (Memory.wfFrom_cons ..).2 ⟨ha, h4, by subst h3; exact hm⟩
    · exact (Memory.wfFrom_cons ..).2 ⟨hk, hx, ih hm (by omega)⟩

@[simp] theorem Memory.read_write_same {m : Memory} (a : Nat) (v : Byte) (h : Memory.wf m = true) :
    Memory.read (Memory.write m a v) a = v := Memory.read_write_same_from a v h

/-- Every memory operation keeps the canonical form: the write is the only one. -/
theorem Memory.wf_write {m : Memory} (a : Nat) (v : Byte) (h : Memory.wf m = true) :
    Memory.wf (Memory.write m a v) = true := Memory.wfFrom_write v h (Nat.zero_le _)

/-- Canonical memories that read alike are equal. -/
theorem Memory.ext_from {lo : Nat} {m m' : Memory} (h : Memory.wfFrom lo m = true)
    (h' : Memory.wfFrom lo m' = true) (hr : ∀ a, Memory.read m a = Memory.read m' a) : m = m' := by
  induction m generalizing lo m' with
  | nil =>
    cases m' with
    | nil => rfl
    | cons c m' =>
      obtain ⟨k, x⟩ := c
      obtain ⟨-, hx, -⟩ := (Memory.wfFrom_cons lo k x m').1 h'
      exact absurd (by simpa [Memory.read_cons] using (hr k).symm) hx
  | cons c m ih =>
    obtain ⟨k, x⟩ := c
    obtain ⟨hk, hx, hm⟩ := (Memory.wfFrom_cons lo k x m).1 h
    cases m' with
    | nil => exact absurd (by simpa [Memory.read_cons] using hr k) hx
    | cons c' m' =>
      obtain ⟨k', x'⟩ := c'
      obtain ⟨hk', hx', hm'⟩ := (Memory.wfFrom_cons lo k' x' m').1 h'
      have hkk : k = k' := by
        by_contra hne
        rcases Nat.lt_or_gt_of_ne hne with hlt | hlt
        · have := hr k
          rw [Memory.read_cons, if_pos rfl, Memory.read_cons, if_neg (by omega),
            Memory.read_below hm' (by omega)] at this
          exact hx this
        · have := hr k'
          rw [Memory.read_cons, if_neg (by omega), Memory.read_cons, if_pos rfl,
            Memory.read_below hm (by omega)] at this
          exact hx' this.symm
      subst hkk
      have hv : x = x' := by simpa [Memory.read_cons] using hr k
      subst hv
      have hmm : m = m' := ih hm hm' fun a => by
        have ha := hr a
        rw [Memory.read_cons, Memory.read_cons] at ha
        split at ha
        · subst a; rw [Memory.read_below hm (by omega), Memory.read_below hm' (by omega)]
        · exact ha
      rw [hmm]

theorem Memory.ext {m m' : Memory} (h : Memory.wf m = true) (h' : Memory.wf m' = true)
    (hr : ∀ a, Memory.read m a = Memory.read m' a) : m = m' := Memory.ext_from h h' hr

/-- The last write to an address is the one that stands. -/
@[simp] theorem Memory.write_write {m : Memory} (a : Nat) (v v' : Byte) (h : Memory.wf m = true) :
    Memory.write (Memory.write m a v) a v' = Memory.write m a v' := by
  refine Memory.ext (Memory.wf_write _ _ (Memory.wf_write _ _ h)) (Memory.wf_write _ _ h) fun b => ?_
  by_cases hb : b = a
  · subst hb
    rw [Memory.read_write_same _ _ (Memory.wf_write _ _ h), Memory.read_write_same _ _ h]
  · rw [Memory.read_write_other _ hb, Memory.read_write_other _ hb, Memory.read_write_other _ hb]

end Sys2Proof.Machine
end

