-- ==== Sys2Proof/Laws/State.lean ====
section
/-! SUPPORT. What each named update does to each field of the state, one lemma a field. -/

namespace Sys2Proof.Machine

/-! ### accept -/

@[simp] theorem accept_prm (op : BitVec 4) (a0 a1 a2 : Byte) (s : State) :
    (accept op a0 a1 a2 s).prm = s.prm := rfl
@[simp] theorem accept_pm (op : BitVec 4) (a0 a1 a2 : Byte) (s : State) :
    (accept op a0 a1 a2 s).pm = s.pm := rfl
@[simp] theorem accept_mapValid (op : BitVec 4) (a0 a1 a2 : Byte) (s : State) :
    (accept op a0 a1 a2 s).mapValid = s.mapValid := rfl
@[simp] theorem accept_blPol (op : BitVec 4) (a0 a1 a2 : Byte) (s : State) :
    (accept op a0 a1 a2 s).blPol = s.blPol := rfl
@[simp] theorem accept_devAddr (op : BitVec 4) (a0 a1 a2 : Byte) (s : State) :
    (accept op a0 a1 a2 s).devAddr = s.devAddr := rfl
@[simp] theorem accept_op (op : BitVec 4) (a0 a1 a2 : Byte) (s : State) :
    (accept op a0 a1 a2 s).op = op := rfl
@[simp] theorem accept_a0 (op : BitVec 4) (a0 a1 a2 : Byte) (s : State) :
    (accept op a0 a1 a2 s).a0 = a0 := rfl
@[simp] theorem accept_a1 (op : BitVec 4) (a0 a1 a2 : Byte) (s : State) :
    (accept op a0 a1 a2 s).a1 = a1 := rfl
@[simp] theorem accept_a2 (op : BitVec 4) (a0 a1 a2 : Byte) (s : State) :
    (accept op a0 a1 a2 s).a2 = a2 := rfl
@[simp] theorem accept_val (op : BitVec 4) (a0 a1 a2 : Byte) (s : State) :
    (accept op a0 a1 a2 s).val = s.val := rfl
@[simp] theorem accept_rs (op : BitVec 4) (a0 a1 a2 : Byte) (s : State) :
    (accept op a0 a1 a2 s).rs = s.rs := rfl
@[simp] theorem accept_rw (op : BitVec 4) (a0 a1 a2 : Byte) (s : State) :
    (accept op a0 a1 a2 s).rw = s.rw := rfl
@[simp] theorem accept_len (op : BitVec 4) (a0 a1 a2 : Byte) (s : State) :
    (accept op a0 a1 a2 s).len = s.len := rfl
@[simp] theorem accept_word (op : BitVec 4) (a0 a1 a2 : Byte) (s : State) :
    (accept op a0 a1 a2 s).word = s.word := rfl
@[simp] theorem accept_rdHi (op : BitVec 4) (a0 a1 a2 : Byte) (s : State) :
    (accept op a0 a1 a2 s).rdHi = s.rdHi := rfl
@[simp] theorem accept_rdLo (op : BitVec 4) (a0 a1 a2 : Byte) (s : State) :
    (accept op a0 a1 a2 s).rdLo = s.rdLo := rfl
@[simp] theorem accept_status (op : BitVec 4) (a0 a1 a2 : Byte) (s : State) :
    (accept op a0 a1 a2 s).status = s.status := rfl
@[simp] theorem accept_rdata (op : BitVec 4) (a0 a1 a2 : Byte) (s : State) :
    (accept op a0 a1 a2 s).rdata = s.rdata := rfl
@[simp] theorem accept_cols (op : BitVec 4) (a0 a1 a2 : Byte) (s : State) :
    (accept op a0 a1 a2 s).cols = s.cols := rfl
@[simp] theorem accept_rows (op : BitVec 4) (a0 a1 a2 : Byte) (s : State) :
    (accept op a0 a1 a2 s).rows = s.rows := rfl
@[simp] theorem accept_font (op : BitVec 4) (a0 a1 a2 : Byte) (s : State) :
    (accept op a0 a1 a2 s).font = s.font := rfl
@[simp] theorem accept_dispOn (op : BitVec 4) (a0 a1 a2 : Byte) (s : State) :
    (accept op a0 a1 a2 s).dispOn = s.dispOn := rfl
@[simp] theorem accept_curOn (op : BitVec 4) (a0 a1 a2 : Byte) (s : State) :
    (accept op a0 a1 a2 s).curOn = s.curOn := rfl
@[simp] theorem accept_blinkOn (op : BitVec 4) (a0 a1 a2 : Byte) (s : State) :
    (accept op a0 a1 a2 s).blinkOn = s.blinkOn := rfl
@[simp] theorem accept_entryLtr (op : BitVec 4) (a0 a1 a2 : Byte) (s : State) :
    (accept op a0 a1 a2 s).entryLtr = s.entryLtr := rfl
@[simp] theorem accept_autoscroll (op : BitVec 4) (a0 a1 a2 : Byte) (s : State) :
    (accept op a0 a1 a2 s).autoscroll = s.autoscroll := rfl
@[simp] theorem accept_blOn (op : BitVec 4) (a0 a1 a2 : Byte) (s : State) :
    (accept op a0 a1 a2 s).blOn = s.blOn := rfl
@[simp] theorem accept_initOk (op : BitVec 4) (a0 a1 a2 : Byte) (s : State) :
    (accept op a0 a1 a2 s).initOk = s.initOk := rfl
@[simp] theorem accept_top (op : BitVec 4) (a0 a1 a2 : Byte) (s : State) :
    (accept op a0 a1 a2 s).top = .busy := rfl
@[simp] theorem accept_seq (op : BitVec 4) (a0 a1 a2 : Byte) (s : State) :
    (accept op a0 a1 a2 s).seq = s.seq := rfl
@[simp] theorem accept_npd (op : BitVec 4) (a0 a1 a2 : Byte) (s : State) :
    (accept op a0 a1 a2 s).npd = s.npd := rfl
@[simp] theorem accept_rspValid (op : BitVec 4) (a0 a1 a2 : Byte) (s : State) :
    (accept op a0 a1 a2 s).rspValid = false := rfl
@[simp] theorem accept_req (op : BitVec 4) (a0 a1 a2 : Byte) (s : State) :
    (accept op a0 a1 a2 s).req = s.req := rfl
@[simp] theorem accept_bus (op : BitVec 4) (a0 a1 a2 : Byte) (s : State) :
    (accept op a0 a1 a2 s).bus = s.bus := rfl
@[simp] theorem accept_ctl (op : BitVec 4) (a0 a1 a2 : Byte) (s : State) :
    (accept op a0 a1 a2 s).ctl = s.ctl := rfl
@[simp] theorem accept_hostIn (op : BitVec 4) (a0 a1 a2 : Byte) (s : State) :
    (accept op a0 a1 a2 s).hostIn = s.hostIn := rfl
@[simp] theorem accept_tpIn (op : BitVec 4) (a0 a1 a2 : Byte) (s : State) :
    (accept op a0 a1 a2 s).tpIn = s.tpIn := rfl
@[simp] theorem accept_dlIn (op : BitVec 4) (a0 a1 a2 : Byte) (s : State) :
    (accept op a0 a1 a2 s).dlIn = s.dlIn := rfl
@[simp] theorem accept_trace (op : BitVec 4) (a0 a1 a2 : Byte) (s : State) :
    (accept op a0 a1 a2 s).trace = s.trace := rfl
@[simp] theorem accept_layerOut (op : BitVec 4) (a0 a1 a2 : Byte) (s : State) :
    (accept op a0 a1 a2 s).layerOut = s.layerOut := rfl
@[simp] theorem accept_free (op : BitVec 4) (a0 a1 a2 : Byte) (s : State) :
    (accept op a0 a1 a2 s).free = s.free := rfl
@[simp] theorem encWord_accept (op : BitVec 4) (a0 a1 a2 : Byte) (s : State) (rs' rw' e : Bool) (n' : Nibble) :
    encWord (accept op a0 a1 a2 s) rs' rw' e n' = encWord s rs' rw' e n' := rfl

/-! ### respond -/

@[simp] theorem respond_prm (st : Status) (d : Byte) (s : State) :
    (respond st d s).prm = s.prm := rfl
@[simp] theorem respond_pm (st : Status) (d : Byte) (s : State) :
    (respond st d s).pm = s.pm := rfl
@[simp] theorem respond_mapValid (st : Status) (d : Byte) (s : State) :
    (respond st d s).mapValid = s.mapValid := rfl
@[simp] theorem respond_blPol (st : Status) (d : Byte) (s : State) :
    (respond st d s).blPol = s.blPol := rfl
@[simp] theorem respond_devAddr (st : Status) (d : Byte) (s : State) :
    (respond st d s).devAddr = s.devAddr := rfl
@[simp] theorem respond_op (st : Status) (d : Byte) (s : State) :
    (respond st d s).op = s.op := rfl
@[simp] theorem respond_a0 (st : Status) (d : Byte) (s : State) :
    (respond st d s).a0 = s.a0 := rfl
@[simp] theorem respond_a1 (st : Status) (d : Byte) (s : State) :
    (respond st d s).a1 = s.a1 := rfl
@[simp] theorem respond_a2 (st : Status) (d : Byte) (s : State) :
    (respond st d s).a2 = s.a2 := rfl
@[simp] theorem respond_val (st : Status) (d : Byte) (s : State) :
    (respond st d s).val = s.val := rfl
@[simp] theorem respond_rs (st : Status) (d : Byte) (s : State) :
    (respond st d s).rs = s.rs := rfl
@[simp] theorem respond_rw (st : Status) (d : Byte) (s : State) :
    (respond st d s).rw = s.rw := rfl
@[simp] theorem respond_len (st : Status) (d : Byte) (s : State) :
    (respond st d s).len = s.len := rfl
@[simp] theorem respond_word (st : Status) (d : Byte) (s : State) :
    (respond st d s).word = s.word := rfl
@[simp] theorem respond_rdHi (st : Status) (d : Byte) (s : State) :
    (respond st d s).rdHi = s.rdHi := rfl
@[simp] theorem respond_rdLo (st : Status) (d : Byte) (s : State) :
    (respond st d s).rdLo = s.rdLo := rfl
@[simp] theorem respond_status (st : Status) (d : Byte) (s : State) :
    (respond st d s).status = st := rfl
@[simp] theorem respond_rdata (st : Status) (d : Byte) (s : State) :
    (respond st d s).rdata = d := rfl
@[simp] theorem respond_cols (st : Status) (d : Byte) (s : State) :
    (respond st d s).cols = s.cols := rfl
@[simp] theorem respond_rows (st : Status) (d : Byte) (s : State) :
    (respond st d s).rows = s.rows := rfl
@[simp] theorem respond_font (st : Status) (d : Byte) (s : State) :
    (respond st d s).font = s.font := rfl
@[simp] theorem respond_dispOn (st : Status) (d : Byte) (s : State) :
    (respond st d s).dispOn = s.dispOn := rfl
@[simp] theorem respond_curOn (st : Status) (d : Byte) (s : State) :
    (respond st d s).curOn = s.curOn := rfl
@[simp] theorem respond_blinkOn (st : Status) (d : Byte) (s : State) :
    (respond st d s).blinkOn = s.blinkOn := rfl
@[simp] theorem respond_entryLtr (st : Status) (d : Byte) (s : State) :
    (respond st d s).entryLtr = s.entryLtr := rfl
@[simp] theorem respond_autoscroll (st : Status) (d : Byte) (s : State) :
    (respond st d s).autoscroll = s.autoscroll := rfl
@[simp] theorem respond_blOn (st : Status) (d : Byte) (s : State) :
    (respond st d s).blOn = s.blOn := rfl
@[simp] theorem respond_initOk (st : Status) (d : Byte) (s : State) :
    (respond st d s).initOk = s.initOk := rfl
@[simp] theorem respond_top (st : Status) (d : Byte) (s : State) :
    (respond st d s).top = .idle := rfl
@[simp] theorem respond_seq (st : Status) (d : Byte) (s : State) :
    (respond st d s).seq = s.seq := rfl
@[simp] theorem respond_npd (st : Status) (d : Byte) (s : State) :
    (respond st d s).npd = s.npd := rfl
@[simp] theorem respond_rspValid (st : Status) (d : Byte) (s : State) :
    (respond st d s).rspValid = true := rfl
@[simp] theorem respond_req (st : Status) (d : Byte) (s : State) :
    (respond st d s).req = s.req := rfl
@[simp] theorem respond_bus (st : Status) (d : Byte) (s : State) :
    (respond st d s).bus = s.bus := rfl
@[simp] theorem respond_ctl (st : Status) (d : Byte) (s : State) :
    (respond st d s).ctl = s.ctl := rfl
@[simp] theorem respond_hostIn (st : Status) (d : Byte) (s : State) :
    (respond st d s).hostIn = s.hostIn := rfl
@[simp] theorem respond_tpIn (st : Status) (d : Byte) (s : State) :
    (respond st d s).tpIn = s.tpIn := rfl
@[simp] theorem respond_dlIn (st : Status) (d : Byte) (s : State) :
    (respond st d s).dlIn = s.dlIn := rfl
@[simp] theorem respond_trace (st : Status) (d : Byte) (s : State) :
    (respond st d s).trace = s.trace ++ [Event.rsp st d] := rfl
@[simp] theorem respond_layerOut (st : Status) (d : Byte) (s : State) :
    (respond st d s).layerOut = s.layerOut := rfl
@[simp] theorem respond_free (st : Status) (d : Byte) (s : State) :
    (respond st d s).free = s.free := rfl
@[simp] theorem encWord_respond (st : Status) (d : Byte) (s : State) (rs' rw' e : Bool) (n' : Nibble) :
    encWord (respond st d s) rs' rw' e n' = encWord s rs' rw' e n' := rfl

/-! ### raise -/

@[simp] theorem raise_prm (x : Status) (s : State) : (raise x s).prm = s.prm := rfl
@[simp] theorem raise_pm (x : Status) (s : State) : (raise x s).pm = s.pm := rfl
@[simp] theorem raise_mapValid (x : Status) (s : State) :
    (raise x s).mapValid = s.mapValid := rfl
@[simp] theorem raise_blPol (x : Status) (s : State) : (raise x s).blPol = s.blPol := rfl
@[simp] theorem raise_devAddr (x : Status) (s : State) : (raise x s).devAddr = s.devAddr := rfl
@[simp] theorem raise_op (x : Status) (s : State) : (raise x s).op = s.op := rfl
@[simp] theorem raise_a0 (x : Status) (s : State) : (raise x s).a0 = s.a0 := rfl
@[simp] theorem raise_a1 (x : Status) (s : State) : (raise x s).a1 = s.a1 := rfl
@[simp] theorem raise_a2 (x : Status) (s : State) : (raise x s).a2 = s.a2 := rfl
@[simp] theorem raise_val (x : Status) (s : State) : (raise x s).val = s.val := rfl
@[simp] theorem raise_rs (x : Status) (s : State) : (raise x s).rs = s.rs := rfl
@[simp] theorem raise_rw (x : Status) (s : State) : (raise x s).rw = s.rw := rfl
@[simp] theorem raise_len (x : Status) (s : State) : (raise x s).len = s.len := rfl
@[simp] theorem raise_word (x : Status) (s : State) : (raise x s).word = s.word := rfl
@[simp] theorem raise_rdHi (x : Status) (s : State) : (raise x s).rdHi = s.rdHi := rfl
@[simp] theorem raise_rdLo (x : Status) (s : State) : (raise x s).rdLo = s.rdLo := rfl
@[simp] theorem raise_status (x : Status) (s : State) : (raise x s).status = x := rfl
@[simp] theorem raise_rdata (x : Status) (s : State) : (raise x s).rdata = 0#8 := rfl
@[simp] theorem raise_cols (x : Status) (s : State) : (raise x s).cols = s.cols := rfl
@[simp] theorem raise_rows (x : Status) (s : State) : (raise x s).rows = s.rows := rfl
@[simp] theorem raise_font (x : Status) (s : State) : (raise x s).font = s.font := rfl
@[simp] theorem raise_dispOn (x : Status) (s : State) : (raise x s).dispOn = s.dispOn := rfl
@[simp] theorem raise_curOn (x : Status) (s : State) : (raise x s).curOn = s.curOn := rfl
@[simp] theorem raise_blinkOn (x : Status) (s : State) : (raise x s).blinkOn = s.blinkOn := rfl
@[simp] theorem raise_entryLtr (x : Status) (s : State) :
    (raise x s).entryLtr = s.entryLtr := rfl
@[simp] theorem raise_autoscroll (x : Status) (s : State) :
    (raise x s).autoscroll = s.autoscroll := rfl
@[simp] theorem raise_blOn (x : Status) (s : State) : (raise x s).blOn = s.blOn := rfl
@[simp] theorem raise_initOk (x : Status) (s : State) : (raise x s).initOk = s.initOk := rfl
@[simp] theorem raise_top (x : Status) (s : State) : (raise x s).top = .idle := rfl
@[simp] theorem raise_seq (x : Status) (s : State) : (raise x s).seq = s.seq := rfl
@[simp] theorem raise_npd (x : Status) (s : State) : (raise x s).npd = .done := rfl
@[simp] theorem raise_rspValid (x : Status) (s : State) : (raise x s).rspValid = true := rfl
@[simp] theorem raise_req (x : Status) (s : State) : (raise x s).req = .none := rfl
@[simp] theorem raise_bus (x : Status) (s : State) : (raise x s).bus = s.bus := rfl
@[simp] theorem raise_ctl (x : Status) (s : State) : (raise x s).ctl = s.ctl := rfl
@[simp] theorem raise_hostIn (x : Status) (s : State) : (raise x s).hostIn = s.hostIn := rfl
@[simp] theorem raise_tpIn (x : Status) (s : State) : (raise x s).tpIn = s.tpIn := rfl
@[simp] theorem raise_dlIn (x : Status) (s : State) : (raise x s).dlIn = s.dlIn := rfl
@[simp] theorem raise_trace (x : Status) (s : State) :
    (raise x s).trace = s.trace ++ [Event.rsp x 0#8] := rfl
@[simp] theorem raise_layerOut (x : Status) (s : State) :
    (raise x s).layerOut = s.layerOut := rfl
@[simp] theorem raise_free (x : Status) (s : State) : (raise x s).free = s.free := rfl
@[simp] theorem encWord_raise (x : Status) (s : State) (rs' rw' e : Bool) (n' : Nibble) :
    encWord (raise x s) rs' rw' e n' = encWord s rs' rw' e n' := rfl

/-! ### issueWrite -/

@[simp] theorem issueWrite_prm (s : State) : (issueWrite s).prm = s.prm := rfl
@[simp] theorem issueWrite_pm (s : State) : (issueWrite s).pm = s.pm := rfl
@[simp] theorem issueWrite_mapValid (s : State) : (issueWrite s).mapValid = s.mapValid := rfl
@[simp] theorem issueWrite_blPol (s : State) : (issueWrite s).blPol = s.blPol := rfl
@[simp] theorem issueWrite_devAddr (s : State) : (issueWrite s).devAddr = s.devAddr := rfl
@[simp] theorem issueWrite_op (s : State) : (issueWrite s).op = s.op := rfl
@[simp] theorem issueWrite_a0 (s : State) : (issueWrite s).a0 = s.a0 := rfl
@[simp] theorem issueWrite_a1 (s : State) : (issueWrite s).a1 = s.a1 := rfl
@[simp] theorem issueWrite_a2 (s : State) : (issueWrite s).a2 = s.a2 := rfl
@[simp] theorem issueWrite_val (s : State) : (issueWrite s).val = s.val := rfl
@[simp] theorem issueWrite_rs (s : State) : (issueWrite s).rs = s.rs := rfl
@[simp] theorem issueWrite_rw (s : State) : (issueWrite s).rw = s.rw := rfl
@[simp] theorem issueWrite_len (s : State) : (issueWrite s).len = s.len := rfl
@[simp] theorem issueWrite_word (s : State) : (issueWrite s).word = s.word := rfl
@[simp] theorem issueWrite_rdHi (s : State) : (issueWrite s).rdHi = s.rdHi := rfl
@[simp] theorem issueWrite_rdLo (s : State) : (issueWrite s).rdLo = s.rdLo := rfl
@[simp] theorem issueWrite_status (s : State) : (issueWrite s).status = s.status := rfl
@[simp] theorem issueWrite_rdata (s : State) : (issueWrite s).rdata = s.rdata := rfl
@[simp] theorem issueWrite_cols (s : State) : (issueWrite s).cols = s.cols := rfl
@[simp] theorem issueWrite_rows (s : State) : (issueWrite s).rows = s.rows := rfl
@[simp] theorem issueWrite_font (s : State) : (issueWrite s).font = s.font := rfl
@[simp] theorem issueWrite_dispOn (s : State) : (issueWrite s).dispOn = s.dispOn := rfl
@[simp] theorem issueWrite_curOn (s : State) : (issueWrite s).curOn = s.curOn := rfl
@[simp] theorem issueWrite_blinkOn (s : State) : (issueWrite s).blinkOn = s.blinkOn := rfl
@[simp] theorem issueWrite_entryLtr (s : State) : (issueWrite s).entryLtr = s.entryLtr := rfl
@[simp] theorem issueWrite_autoscroll (s : State) :
    (issueWrite s).autoscroll = s.autoscroll := rfl
@[simp] theorem issueWrite_blOn (s : State) : (issueWrite s).blOn = s.blOn := rfl
@[simp] theorem issueWrite_initOk (s : State) : (issueWrite s).initOk = s.initOk := rfl
@[simp] theorem issueWrite_top (s : State) : (issueWrite s).top = s.top := rfl
@[simp] theorem issueWrite_seq (s : State) : (issueWrite s).seq = s.seq := rfl
@[simp] theorem issueWrite_npd (s : State) : (issueWrite s).npd = s.npd := rfl
@[simp] theorem issueWrite_rspValid (s : State) : (issueWrite s).rspValid = s.rspValid := rfl
@[simp] theorem issueWrite_req (s : State) : (issueWrite s).req = .write := rfl
@[simp] theorem issueWrite_bus (s : State) : (issueWrite s).bus = s.bus := rfl
@[simp] theorem issueWrite_ctl (s : State) : (issueWrite s).ctl = s.ctl := rfl
@[simp] theorem issueWrite_hostIn (s : State) : (issueWrite s).hostIn = s.hostIn := rfl
@[simp] theorem issueWrite_tpIn (s : State) : (issueWrite s).tpIn = s.tpIn := rfl
@[simp] theorem issueWrite_dlIn (s : State) : (issueWrite s).dlIn = s.dlIn := rfl
@[simp] theorem issueWrite_trace (s : State) :
    (issueWrite s).trace = s.trace ++ [Event.write s.word] := rfl
@[simp] theorem issueWrite_layerOut (s : State) : (issueWrite s).layerOut = s.layerOut := rfl
@[simp] theorem issueWrite_free (s : State) : (issueWrite s).free = s.free := rfl
@[simp] theorem encWord_issueWrite (s : State) (rs' rw' e : Bool) (n' : Nibble) :
    encWord (issueWrite s) rs' rw' e n' = encWord s rs' rw' e n' := rfl

/-! ### issueRead -/

@[simp] theorem issueRead_prm (s : State) : (issueRead s).prm = s.prm := rfl
@[simp] theorem issueRead_pm (s : State) : (issueRead s).pm = s.pm := rfl
@[simp] theorem issueRead_mapValid (s : State) : (issueRead s).mapValid = s.mapValid := rfl
@[simp] theorem issueRead_blPol (s : State) : (issueRead s).blPol = s.blPol := rfl
@[simp] theorem issueRead_devAddr (s : State) : (issueRead s).devAddr = s.devAddr := rfl
@[simp] theorem issueRead_op (s : State) : (issueRead s).op = s.op := rfl
@[simp] theorem issueRead_a0 (s : State) : (issueRead s).a0 = s.a0 := rfl
@[simp] theorem issueRead_a1 (s : State) : (issueRead s).a1 = s.a1 := rfl
@[simp] theorem issueRead_a2 (s : State) : (issueRead s).a2 = s.a2 := rfl
@[simp] theorem issueRead_val (s : State) : (issueRead s).val = s.val := rfl
@[simp] theorem issueRead_rs (s : State) : (issueRead s).rs = s.rs := rfl
@[simp] theorem issueRead_rw (s : State) : (issueRead s).rw = s.rw := rfl
@[simp] theorem issueRead_len (s : State) : (issueRead s).len = s.len := rfl
@[simp] theorem issueRead_word (s : State) : (issueRead s).word = s.word := rfl
@[simp] theorem issueRead_rdHi (s : State) : (issueRead s).rdHi = s.rdHi := rfl
@[simp] theorem issueRead_rdLo (s : State) : (issueRead s).rdLo = s.rdLo := rfl
@[simp] theorem issueRead_status (s : State) : (issueRead s).status = s.status := rfl
@[simp] theorem issueRead_rdata (s : State) : (issueRead s).rdata = s.rdata := rfl
@[simp] theorem issueRead_cols (s : State) : (issueRead s).cols = s.cols := rfl
@[simp] theorem issueRead_rows (s : State) : (issueRead s).rows = s.rows := rfl
@[simp] theorem issueRead_font (s : State) : (issueRead s).font = s.font := rfl
@[simp] theorem issueRead_dispOn (s : State) : (issueRead s).dispOn = s.dispOn := rfl
@[simp] theorem issueRead_curOn (s : State) : (issueRead s).curOn = s.curOn := rfl
@[simp] theorem issueRead_blinkOn (s : State) : (issueRead s).blinkOn = s.blinkOn := rfl
@[simp] theorem issueRead_entryLtr (s : State) : (issueRead s).entryLtr = s.entryLtr := rfl
@[simp] theorem issueRead_autoscroll (s : State) : (issueRead s).autoscroll = s.autoscroll := rfl
@[simp] theorem issueRead_blOn (s : State) : (issueRead s).blOn = s.blOn := rfl
@[simp] theorem issueRead_initOk (s : State) : (issueRead s).initOk = s.initOk := rfl
@[simp] theorem issueRead_top (s : State) : (issueRead s).top = s.top := rfl
@[simp] theorem issueRead_seq (s : State) : (issueRead s).seq = s.seq := rfl
@[simp] theorem issueRead_npd (s : State) : (issueRead s).npd = s.npd := rfl
@[simp] theorem issueRead_rspValid (s : State) : (issueRead s).rspValid = s.rspValid := rfl
@[simp] theorem issueRead_req (s : State) : (issueRead s).req = .read := rfl
@[simp] theorem issueRead_bus (s : State) : (issueRead s).bus = s.bus := rfl
@[simp] theorem issueRead_ctl (s : State) : (issueRead s).ctl = s.ctl := rfl
@[simp] theorem issueRead_hostIn (s : State) : (issueRead s).hostIn = s.hostIn := rfl
@[simp] theorem issueRead_tpIn (s : State) : (issueRead s).tpIn = s.tpIn := rfl
@[simp] theorem issueRead_dlIn (s : State) : (issueRead s).dlIn = s.dlIn := rfl
@[simp] theorem issueRead_trace (s : State) :
    (issueRead s).trace = s.trace ++ [Event.read] := rfl
@[simp] theorem issueRead_layerOut (s : State) : (issueRead s).layerOut = s.layerOut := rfl
@[simp] theorem issueRead_free (s : State) : (issueRead s).free = s.free := rfl
@[simp] theorem encWord_issueRead (s : State) (rs' rw' e : Bool) (n' : Nibble) :
    encWord (issueRead s) rs' rw' e n' = encWord s rs' rw' e n' := rfl

/-! ### issueDelay -/

@[simp] theorem issueDelay_prm (n : Micros) (s : State) : (issueDelay n s).prm = s.prm := rfl
@[simp] theorem issueDelay_pm (n : Micros) (s : State) : (issueDelay n s).pm = s.pm := rfl
@[simp] theorem issueDelay_mapValid (n : Micros) (s : State) :
    (issueDelay n s).mapValid = s.mapValid := rfl
@[simp] theorem issueDelay_blPol (n : Micros) (s : State) :
    (issueDelay n s).blPol = s.blPol := rfl
@[simp] theorem issueDelay_devAddr (n : Micros) (s : State) :
    (issueDelay n s).devAddr = s.devAddr := rfl
@[simp] theorem issueDelay_op (n : Micros) (s : State) : (issueDelay n s).op = s.op := rfl
@[simp] theorem issueDelay_a0 (n : Micros) (s : State) : (issueDelay n s).a0 = s.a0 := rfl
@[simp] theorem issueDelay_a1 (n : Micros) (s : State) : (issueDelay n s).a1 = s.a1 := rfl
@[simp] theorem issueDelay_a2 (n : Micros) (s : State) : (issueDelay n s).a2 = s.a2 := rfl
@[simp] theorem issueDelay_val (n : Micros) (s : State) : (issueDelay n s).val = s.val := rfl
@[simp] theorem issueDelay_rs (n : Micros) (s : State) : (issueDelay n s).rs = s.rs := rfl
@[simp] theorem issueDelay_rw (n : Micros) (s : State) : (issueDelay n s).rw = s.rw := rfl
@[simp] theorem issueDelay_len (n : Micros) (s : State) : (issueDelay n s).len = s.len := rfl
@[simp] theorem issueDelay_word (n : Micros) (s : State) : (issueDelay n s).word = s.word := rfl
@[simp] theorem issueDelay_rdHi (n : Micros) (s : State) : (issueDelay n s).rdHi = s.rdHi := rfl
@[simp] theorem issueDelay_rdLo (n : Micros) (s : State) : (issueDelay n s).rdLo = s.rdLo := rfl
@[simp] theorem issueDelay_status (n : Micros) (s : State) :
    (issueDelay n s).status = s.status := rfl
@[simp] theorem issueDelay_rdata (n : Micros) (s : State) :
    (issueDelay n s).rdata = s.rdata := rfl
@[simp] theorem issueDelay_cols (n : Micros) (s : State) : (issueDelay n s).cols = s.cols := rfl
@[simp] theorem issueDelay_rows (n : Micros) (s : State) : (issueDelay n s).rows = s.rows := rfl
@[simp] theorem issueDelay_font (n : Micros) (s : State) : (issueDelay n s).font = s.font := rfl
@[simp] theorem issueDelay_dispOn (n : Micros) (s : State) :
    (issueDelay n s).dispOn = s.dispOn := rfl
@[simp] theorem issueDelay_curOn (n : Micros) (s : State) :
    (issueDelay n s).curOn = s.curOn := rfl
@[simp] theorem issueDelay_blinkOn (n : Micros) (s : State) :
    (issueDelay n s).blinkOn = s.blinkOn := rfl
@[simp] theorem issueDelay_entryLtr (n : Micros) (s : State) :
    (issueDelay n s).entryLtr = s.entryLtr := rfl
@[simp] theorem issueDelay_autoscroll (n : Micros) (s : State) :
    (issueDelay n s).autoscroll = s.autoscroll := rfl
@[simp] theorem issueDelay_blOn (n : Micros) (s : State) : (issueDelay n s).blOn = s.blOn := rfl
@[simp] theorem issueDelay_initOk (n : Micros) (s : State) :
    (issueDelay n s).initOk = s.initOk := rfl
@[simp] theorem issueDelay_top (n : Micros) (s : State) : (issueDelay n s).top = s.top := rfl
@[simp] theorem issueDelay_seq (n : Micros) (s : State) : (issueDelay n s).seq = s.seq := rfl
@[simp] theorem issueDelay_npd (n : Micros) (s : State) : (issueDelay n s).npd = s.npd := rfl
@[simp] theorem issueDelay_rspValid (n : Micros) (s : State) :
    (issueDelay n s).rspValid = s.rspValid := rfl
@[simp] theorem issueDelay_req (n : Micros) (s : State) : (issueDelay n s).req = .delay n := rfl
@[simp] theorem issueDelay_bus (n : Micros) (s : State) : (issueDelay n s).bus = s.bus := rfl
@[simp] theorem issueDelay_ctl (n : Micros) (s : State) : (issueDelay n s).ctl = s.ctl := rfl
@[simp] theorem issueDelay_hostIn (n : Micros) (s : State) :
    (issueDelay n s).hostIn = s.hostIn := rfl
@[simp] theorem issueDelay_tpIn (n : Micros) (s : State) : (issueDelay n s).tpIn = s.tpIn := rfl
@[simp] theorem issueDelay_dlIn (n : Micros) (s : State) : (issueDelay n s).dlIn = s.dlIn := rfl
@[simp] theorem issueDelay_trace (n : Micros) (s : State) :
    (issueDelay n s).trace = s.trace ++ [Event.delay n] := rfl
@[simp] theorem issueDelay_layerOut (n : Micros) (s : State) :
    (issueDelay n s).layerOut = s.layerOut := rfl
@[simp] theorem issueDelay_free (n : Micros) (s : State) : (issueDelay n s).free = s.free := rfl
@[simp] theorem encWord_issueDelay (n : Micros) (s : State) (rs' rw' e : Bool) (n' : Nibble) :
    encWord (issueDelay n s) rs' rw' e n' = encWord s rs' rw' e n' := rfl

/-! ### endDelay -/

@[simp] theorem endDelay_prm (s : State) : (endDelay s).prm = s.prm := rfl
@[simp] theorem endDelay_pm (s : State) : (endDelay s).pm = s.pm := rfl
@[simp] theorem endDelay_mapValid (s : State) : (endDelay s).mapValid = s.mapValid := rfl
@[simp] theorem endDelay_blPol (s : State) : (endDelay s).blPol = s.blPol := rfl
@[simp] theorem endDelay_devAddr (s : State) : (endDelay s).devAddr = s.devAddr := rfl
@[simp] theorem endDelay_op (s : State) : (endDelay s).op = s.op := rfl
@[simp] theorem endDelay_a0 (s : State) : (endDelay s).a0 = s.a0 := rfl
@[simp] theorem endDelay_a1 (s : State) : (endDelay s).a1 = s.a1 := rfl
@[simp] theorem endDelay_a2 (s : State) : (endDelay s).a2 = s.a2 := rfl
@[simp] theorem endDelay_val (s : State) : (endDelay s).val = s.val := rfl
@[simp] theorem endDelay_rs (s : State) : (endDelay s).rs = s.rs := rfl
@[simp] theorem endDelay_rw (s : State) : (endDelay s).rw = s.rw := rfl
@[simp] theorem endDelay_len (s : State) : (endDelay s).len = s.len := rfl
@[simp] theorem endDelay_word (s : State) : (endDelay s).word = s.word := rfl
@[simp] theorem endDelay_rdHi (s : State) : (endDelay s).rdHi = s.rdHi := rfl
@[simp] theorem endDelay_rdLo (s : State) : (endDelay s).rdLo = s.rdLo := rfl
@[simp] theorem endDelay_status (s : State) : (endDelay s).status = s.status := rfl
@[simp] theorem endDelay_rdata (s : State) : (endDelay s).rdata = s.rdata := rfl
@[simp] theorem endDelay_cols (s : State) : (endDelay s).cols = s.cols := rfl
@[simp] theorem endDelay_rows (s : State) : (endDelay s).rows = s.rows := rfl
@[simp] theorem endDelay_font (s : State) : (endDelay s).font = s.font := rfl
@[simp] theorem endDelay_dispOn (s : State) : (endDelay s).dispOn = s.dispOn := rfl
@[simp] theorem endDelay_curOn (s : State) : (endDelay s).curOn = s.curOn := rfl
@[simp] theorem endDelay_blinkOn (s : State) : (endDelay s).blinkOn = s.blinkOn := rfl
@[simp] theorem endDelay_entryLtr (s : State) : (endDelay s).entryLtr = s.entryLtr := rfl
@[simp] theorem endDelay_autoscroll (s : State) : (endDelay s).autoscroll = s.autoscroll := rfl
@[simp] theorem endDelay_blOn (s : State) : (endDelay s).blOn = s.blOn := rfl
@[simp] theorem endDelay_initOk (s : State) : (endDelay s).initOk = s.initOk := rfl
@[simp] theorem endDelay_top (s : State) : (endDelay s).top = s.top := rfl
@[simp] theorem endDelay_seq (s : State) : (endDelay s).seq = s.seq := rfl
@[simp] theorem endDelay_npd (s : State) : (endDelay s).npd = s.npd := rfl
@[simp] theorem endDelay_rspValid (s : State) : (endDelay s).rspValid = s.rspValid := rfl
@[simp] theorem endDelay_req (s : State) : (endDelay s).req = .none := rfl
@[simp] theorem endDelay_bus (s : State) : (endDelay s).bus = s.bus := rfl
@[simp] theorem endDelay_ctl (s : State) : (endDelay s).ctl = s.ctl := rfl
@[simp] theorem endDelay_hostIn (s : State) : (endDelay s).hostIn = s.hostIn := rfl
@[simp] theorem endDelay_tpIn (s : State) : (endDelay s).tpIn = s.tpIn := rfl
@[simp] theorem endDelay_dlIn (s : State) : (endDelay s).dlIn = s.dlIn.tail := rfl
@[simp] theorem endDelay_trace (s : State) : (endDelay s).trace = s.trace := rfl
@[simp] theorem endDelay_layerOut (s : State) : (endDelay s).layerOut = s.layerOut := rfl
@[simp] theorem endDelay_free (s : State) : (endDelay s).free = s.free := rfl
@[simp] theorem encWord_endDelay (s : State) (rs' rw' e : Bool) (n' : Nibble) :
    encWord (endDelay s) rs' rw' e n' = encWord s rs' rw' e n' := rfl

/-! ### xferStart -/

@[simp] theorem xferStart_prm (rs rw : Bool) (val : Byte) (len : Bool) (s : State) :
    (xferStart rs rw val len s).prm = s.prm := rfl
@[simp] theorem xferStart_pm (rs rw : Bool) (val : Byte) (len : Bool) (s : State) :
    (xferStart rs rw val len s).pm = s.pm := rfl
@[simp] theorem xferStart_mapValid (rs rw : Bool) (val : Byte) (len : Bool) (s : State) :
    (xferStart rs rw val len s).mapValid = s.mapValid := rfl
@[simp] theorem xferStart_blPol (rs rw : Bool) (val : Byte) (len : Bool) (s : State) :
    (xferStart rs rw val len s).blPol = s.blPol := rfl
@[simp] theorem xferStart_devAddr (rs rw : Bool) (val : Byte) (len : Bool) (s : State) :
    (xferStart rs rw val len s).devAddr = s.devAddr := rfl
@[simp] theorem xferStart_op (rs rw : Bool) (val : Byte) (len : Bool) (s : State) :
    (xferStart rs rw val len s).op = s.op := rfl
@[simp] theorem xferStart_a0 (rs rw : Bool) (val : Byte) (len : Bool) (s : State) :
    (xferStart rs rw val len s).a0 = s.a0 := rfl
@[simp] theorem xferStart_a1 (rs rw : Bool) (val : Byte) (len : Bool) (s : State) :
    (xferStart rs rw val len s).a1 = s.a1 := rfl
@[simp] theorem xferStart_a2 (rs rw : Bool) (val : Byte) (len : Bool) (s : State) :
    (xferStart rs rw val len s).a2 = s.a2 := rfl
@[simp] theorem xferStart_val (rs rw : Bool) (val : Byte) (len : Bool) (s : State) :
    (xferStart rs rw val len s).val = val := rfl
@[simp] theorem xferStart_rs (rs rw : Bool) (val : Byte) (len : Bool) (s : State) :
    (xferStart rs rw val len s).rs = rs := rfl
@[simp] theorem xferStart_rw (rs rw : Bool) (val : Byte) (len : Bool) (s : State) :
    (xferStart rs rw val len s).rw = rw := rfl
@[simp] theorem xferStart_len (rs rw : Bool) (val : Byte) (len : Bool) (s : State) :
    (xferStart rs rw val len s).len = len := rfl
@[simp] theorem xferStart_word (rs rw : Bool) (val : Byte) (len : Bool) (s : State) :
    (xferStart rs rw val len s).word = s.word := rfl
@[simp] theorem xferStart_rdHi (rs rw : Bool) (val : Byte) (len : Bool) (s : State) :
    (xferStart rs rw val len s).rdHi = s.rdHi := rfl
@[simp] theorem xferStart_rdLo (rs rw : Bool) (val : Byte) (len : Bool) (s : State) :
    (xferStart rs rw val len s).rdLo = s.rdLo := rfl
@[simp] theorem xferStart_status (rs rw : Bool) (val : Byte) (len : Bool) (s : State) :
    (xferStart rs rw val len s).status = s.status := rfl
@[simp] theorem xferStart_rdata (rs rw : Bool) (val : Byte) (len : Bool) (s : State) :
    (xferStart rs rw val len s).rdata = s.rdata := rfl
@[simp] theorem xferStart_cols (rs rw : Bool) (val : Byte) (len : Bool) (s : State) :
    (xferStart rs rw val len s).cols = s.cols := rfl
@[simp] theorem xferStart_rows (rs rw : Bool) (val : Byte) (len : Bool) (s : State) :
    (xferStart rs rw val len s).rows = s.rows := rfl
@[simp] theorem xferStart_font (rs rw : Bool) (val : Byte) (len : Bool) (s : State) :
    (xferStart rs rw val len s).font = s.font := rfl
@[simp] theorem xferStart_dispOn (rs rw : Bool) (val : Byte) (len : Bool) (s : State) :
    (xferStart rs rw val len s).dispOn = s.dispOn := rfl
@[simp] theorem xferStart_curOn (rs rw : Bool) (val : Byte) (len : Bool) (s : State) :
    (xferStart rs rw val len s).curOn = s.curOn := rfl
@[simp] theorem xferStart_blinkOn (rs rw : Bool) (val : Byte) (len : Bool) (s : State) :
    (xferStart rs rw val len s).blinkOn = s.blinkOn := rfl
@[simp] theorem xferStart_entryLtr (rs rw : Bool) (val : Byte) (len : Bool) (s : State) :
    (xferStart rs rw val len s).entryLtr = s.entryLtr := rfl
@[simp] theorem xferStart_autoscroll (rs rw : Bool) (val : Byte) (len : Bool) (s : State) :
    (xferStart rs rw val len s).autoscroll = s.autoscroll := rfl
@[simp] theorem xferStart_blOn (rs rw : Bool) (val : Byte) (len : Bool) (s : State) :
    (xferStart rs rw val len s).blOn = s.blOn := rfl
@[simp] theorem xferStart_initOk (rs rw : Bool) (val : Byte) (len : Bool) (s : State) :
    (xferStart rs rw val len s).initOk = s.initOk := rfl
@[simp] theorem xferStart_top (rs rw : Bool) (val : Byte) (len : Bool) (s : State) :
    (xferStart rs rw val len s).top = s.top := rfl
@[simp] theorem xferStart_seq (rs rw : Bool) (val : Byte) (len : Bool) (s : State) :
    (xferStart rs rw val len s).seq = s.seq := rfl
@[simp] theorem xferStart_npd (rs rw : Bool) (val : Byte) (len : Bool) (s : State) :
    (xferStart rs rw val len s).npd = .assembleHigh := rfl
@[simp] theorem xferStart_rspValid (rs rw : Bool) (val : Byte) (len : Bool) (s : State) :
    (xferStart rs rw val len s).rspValid = s.rspValid := rfl
@[simp] theorem xferStart_req (rs rw : Bool) (val : Byte) (len : Bool) (s : State) :
    (xferStart rs rw val len s).req = s.req := rfl
@[simp] theorem xferStart_bus (rs rw : Bool) (val : Byte) (len : Bool) (s : State) :
    (xferStart rs rw val len s).bus = s.bus := rfl
@[simp] theorem xferStart_ctl (rs rw : Bool) (val : Byte) (len : Bool) (s : State) :
    (xferStart rs rw val len s).ctl = s.ctl := rfl
@[simp] theorem xferStart_hostIn (rs rw : Bool) (val : Byte) (len : Bool) (s : State) :
    (xferStart rs rw val len s).hostIn = s.hostIn := rfl
@[simp] theorem xferStart_tpIn (rs rw : Bool) (val : Byte) (len : Bool) (s : State) :
    (xferStart rs rw val len s).tpIn = s.tpIn := rfl
@[simp] theorem xferStart_dlIn (rs rw : Bool) (val : Byte) (len : Bool) (s : State) :
    (xferStart rs rw val len s).dlIn = s.dlIn := rfl
@[simp] theorem xferStart_trace (rs rw : Bool) (val : Byte) (len : Bool) (s : State) :
    (xferStart rs rw val len s).trace = s.trace := rfl
@[simp] theorem xferStart_layerOut (rs rw : Bool) (val : Byte) (len : Bool) (s : State) :
    (xferStart rs rw val len s).layerOut = s.layerOut := rfl
@[simp] theorem xferStart_free (rs rw : Bool) (val : Byte) (len : Bool) (s : State) :
    (xferStart rs rw val len s).free = s.free := rfl
@[simp] theorem encWord_xferStart (rs rw : Bool) (val : Byte) (len : Bool) (s : State) (rs' rw' e : Bool) (n' : Nibble) :
    encWord (xferStart rs rw val len s) rs' rw' e n' = encWord s rs' rw' e n' := rfl

/-! ### npdAdvance -/

@[simp] theorem npdAdvance_prm (s : State) : (npdAdvance s).prm = s.prm := rfl
@[simp] theorem npdAdvance_pm (s : State) : (npdAdvance s).pm = s.pm := rfl
@[simp] theorem npdAdvance_mapValid (s : State) : (npdAdvance s).mapValid = s.mapValid := rfl
@[simp] theorem npdAdvance_blPol (s : State) : (npdAdvance s).blPol = s.blPol := rfl
@[simp] theorem npdAdvance_devAddr (s : State) : (npdAdvance s).devAddr = s.devAddr := rfl
@[simp] theorem npdAdvance_op (s : State) : (npdAdvance s).op = s.op := rfl
@[simp] theorem npdAdvance_a0 (s : State) : (npdAdvance s).a0 = s.a0 := rfl
@[simp] theorem npdAdvance_a1 (s : State) : (npdAdvance s).a1 = s.a1 := rfl
@[simp] theorem npdAdvance_a2 (s : State) : (npdAdvance s).a2 = s.a2 := rfl
@[simp] theorem npdAdvance_val (s : State) : (npdAdvance s).val = s.val := rfl
@[simp] theorem npdAdvance_rs (s : State) : (npdAdvance s).rs = s.rs := rfl
@[simp] theorem npdAdvance_rw (s : State) : (npdAdvance s).rw = s.rw := rfl
@[simp] theorem npdAdvance_len (s : State) : (npdAdvance s).len = s.len := rfl
@[simp] theorem npdAdvance_word (s : State) : (npdAdvance s).word = s.word := rfl
@[simp] theorem npdAdvance_rdHi (s : State) : (npdAdvance s).rdHi = s.rdHi := rfl
@[simp] theorem npdAdvance_rdLo (s : State) : (npdAdvance s).rdLo = s.rdLo := rfl
@[simp] theorem npdAdvance_status (s : State) : (npdAdvance s).status = s.status := rfl
@[simp] theorem npdAdvance_rdata (s : State) : (npdAdvance s).rdata = s.rdata := rfl
@[simp] theorem npdAdvance_cols (s : State) : (npdAdvance s).cols = s.cols := rfl
@[simp] theorem npdAdvance_rows (s : State) : (npdAdvance s).rows = s.rows := rfl
@[simp] theorem npdAdvance_font (s : State) : (npdAdvance s).font = s.font := rfl
@[simp] theorem npdAdvance_dispOn (s : State) : (npdAdvance s).dispOn = s.dispOn := rfl
@[simp] theorem npdAdvance_curOn (s : State) : (npdAdvance s).curOn = s.curOn := rfl
@[simp] theorem npdAdvance_blinkOn (s : State) : (npdAdvance s).blinkOn = s.blinkOn := rfl
@[simp] theorem npdAdvance_entryLtr (s : State) : (npdAdvance s).entryLtr = s.entryLtr := rfl
@[simp] theorem npdAdvance_autoscroll (s : State) :
    (npdAdvance s).autoscroll = s.autoscroll := rfl
@[simp] theorem npdAdvance_blOn (s : State) : (npdAdvance s).blOn = s.blOn := rfl
@[simp] theorem npdAdvance_initOk (s : State) : (npdAdvance s).initOk = s.initOk := rfl
@[simp] theorem npdAdvance_top (s : State) : (npdAdvance s).top = s.top := rfl
@[simp] theorem npdAdvance_seq (s : State) : (npdAdvance s).seq = s.seq := rfl
@[simp] theorem npdAdvance_npd (s : State) :
    (npdAdvance s).npd = npdNext s.prm.rdSample s.rw s.len s.npd := rfl
@[simp] theorem npdAdvance_rspValid (s : State) : (npdAdvance s).rspValid = s.rspValid := rfl
@[simp] theorem npdAdvance_req (s : State) : (npdAdvance s).req = s.req := rfl
@[simp] theorem npdAdvance_bus (s : State) : (npdAdvance s).bus = s.bus := rfl
@[simp] theorem npdAdvance_ctl (s : State) : (npdAdvance s).ctl = s.ctl := rfl
@[simp] theorem npdAdvance_hostIn (s : State) : (npdAdvance s).hostIn = s.hostIn := rfl
@[simp] theorem npdAdvance_tpIn (s : State) : (npdAdvance s).tpIn = s.tpIn := rfl
@[simp] theorem npdAdvance_dlIn (s : State) : (npdAdvance s).dlIn = s.dlIn := rfl
@[simp] theorem npdAdvance_trace (s : State) : (npdAdvance s).trace = s.trace := rfl
@[simp] theorem npdAdvance_layerOut (s : State) : (npdAdvance s).layerOut = s.layerOut := rfl
@[simp] theorem npdAdvance_free (s : State) : (npdAdvance s).free = s.free := rfl
@[simp] theorem encWord_npdAdvance (s : State) (rs' rw' e : Bool) (n' : Nibble) :
    encWord (npdAdvance s) rs' rw' e n' = encWord s rs' rw' e n' := rfl

/-! ### putWord -/

@[simp] theorem putWord_prm (w : Byte) (s : State) : (putWord w s).prm = s.prm := rfl
@[simp] theorem putWord_pm (w : Byte) (s : State) : (putWord w s).pm = s.pm := rfl
@[simp] theorem putWord_mapValid (w : Byte) (s : State) :
    (putWord w s).mapValid = s.mapValid := rfl
@[simp] theorem putWord_blPol (w : Byte) (s : State) : (putWord w s).blPol = s.blPol := rfl
@[simp] theorem putWord_devAddr (w : Byte) (s : State) : (putWord w s).devAddr = s.devAddr := rfl
@[simp] theorem putWord_op (w : Byte) (s : State) : (putWord w s).op = s.op := rfl
@[simp] theorem putWord_a0 (w : Byte) (s : State) : (putWord w s).a0 = s.a0 := rfl
@[simp] theorem putWord_a1 (w : Byte) (s : State) : (putWord w s).a1 = s.a1 := rfl
@[simp] theorem putWord_a2 (w : Byte) (s : State) : (putWord w s).a2 = s.a2 := rfl
@[simp] theorem putWord_val (w : Byte) (s : State) : (putWord w s).val = s.val := rfl
@[simp] theorem putWord_rs (w : Byte) (s : State) : (putWord w s).rs = s.rs := rfl
@[simp] theorem putWord_rw (w : Byte) (s : State) : (putWord w s).rw = s.rw := rfl
@[simp] theorem putWord_len (w : Byte) (s : State) : (putWord w s).len = s.len := rfl
@[simp] theorem putWord_word (w : Byte) (s : State) : (putWord w s).word = w := rfl
@[simp] theorem putWord_rdHi (w : Byte) (s : State) : (putWord w s).rdHi = s.rdHi := rfl
@[simp] theorem putWord_rdLo (w : Byte) (s : State) : (putWord w s).rdLo = s.rdLo := rfl
@[simp] theorem putWord_status (w : Byte) (s : State) : (putWord w s).status = s.status := rfl
@[simp] theorem putWord_rdata (w : Byte) (s : State) : (putWord w s).rdata = s.rdata := rfl
@[simp] theorem putWord_cols (w : Byte) (s : State) : (putWord w s).cols = s.cols := rfl
@[simp] theorem putWord_rows (w : Byte) (s : State) : (putWord w s).rows = s.rows := rfl
@[simp] theorem putWord_font (w : Byte) (s : State) : (putWord w s).font = s.font := rfl
@[simp] theorem putWord_dispOn (w : Byte) (s : State) : (putWord w s).dispOn = s.dispOn := rfl
@[simp] theorem putWord_curOn (w : Byte) (s : State) : (putWord w s).curOn = s.curOn := rfl
@[simp] theorem putWord_blinkOn (w : Byte) (s : State) : (putWord w s).blinkOn = s.blinkOn := rfl
@[simp] theorem putWord_entryLtr (w : Byte) (s : State) :
    (putWord w s).entryLtr = s.entryLtr := rfl
@[simp] theorem putWord_autoscroll (w : Byte) (s : State) :
    (putWord w s).autoscroll = s.autoscroll := rfl
@[simp] theorem putWord_blOn (w : Byte) (s : State) : (putWord w s).blOn = s.blOn := rfl
@[simp] theorem putWord_initOk (w : Byte) (s : State) : (putWord w s).initOk = s.initOk := rfl
@[simp] theorem putWord_top (w : Byte) (s : State) : (putWord w s).top = s.top := rfl
@[simp] theorem putWord_seq (w : Byte) (s : State) : (putWord w s).seq = s.seq := rfl
@[simp] theorem putWord_npd (w : Byte) (s : State) : (putWord w s).npd = s.npd := rfl
@[simp] theorem putWord_rspValid (w : Byte) (s : State) :
    (putWord w s).rspValid = s.rspValid := rfl
@[simp] theorem putWord_req (w : Byte) (s : State) : (putWord w s).req = s.req := rfl
@[simp] theorem putWord_bus (w : Byte) (s : State) : (putWord w s).bus = s.bus := rfl
@[simp] theorem putWord_ctl (w : Byte) (s : State) : (putWord w s).ctl = s.ctl := rfl
@[simp] theorem putWord_hostIn (w : Byte) (s : State) : (putWord w s).hostIn = s.hostIn := rfl
@[simp] theorem putWord_tpIn (w : Byte) (s : State) : (putWord w s).tpIn = s.tpIn := rfl
@[simp] theorem putWord_dlIn (w : Byte) (s : State) : (putWord w s).dlIn = s.dlIn := rfl
@[simp] theorem putWord_trace (w : Byte) (s : State) : (putWord w s).trace = s.trace := rfl
@[simp] theorem putWord_layerOut (w : Byte) (s : State) :
    (putWord w s).layerOut = s.layerOut := rfl
@[simp] theorem putWord_free (w : Byte) (s : State) : (putWord w s).free = s.free := rfl
@[simp] theorem encWord_putWord (w : Byte) (s : State) (rs' rw' e : Bool) (n' : Nibble) :
    encWord (putWord w s) rs' rw' e n' = encWord s rs' rw' e n' := rfl

/-! ### clearEnable -/

@[simp] theorem clearEnable_prm (s : State) : (clearEnable s).prm = s.prm := rfl
@[simp] theorem clearEnable_pm (s : State) : (clearEnable s).pm = s.pm := rfl
@[simp] theorem clearEnable_mapValid (s : State) : (clearEnable s).mapValid = s.mapValid := rfl
@[simp] theorem clearEnable_blPol (s : State) : (clearEnable s).blPol = s.blPol := rfl
@[simp] theorem clearEnable_devAddr (s : State) : (clearEnable s).devAddr = s.devAddr := rfl
@[simp] theorem clearEnable_op (s : State) : (clearEnable s).op = s.op := rfl
@[simp] theorem clearEnable_a0 (s : State) : (clearEnable s).a0 = s.a0 := rfl
@[simp] theorem clearEnable_a1 (s : State) : (clearEnable s).a1 = s.a1 := rfl
@[simp] theorem clearEnable_a2 (s : State) : (clearEnable s).a2 = s.a2 := rfl
@[simp] theorem clearEnable_val (s : State) : (clearEnable s).val = s.val := rfl
@[simp] theorem clearEnable_rs (s : State) : (clearEnable s).rs = s.rs := rfl
@[simp] theorem clearEnable_rw (s : State) : (clearEnable s).rw = s.rw := rfl
@[simp] theorem clearEnable_len (s : State) : (clearEnable s).len = s.len := rfl
@[simp] theorem clearEnable_word (s : State) :
    (clearEnable s).word = s.word &&& ~~~(eMask s) := rfl
@[simp] theorem clearEnable_rdHi (s : State) : (clearEnable s).rdHi = s.rdHi := rfl
@[simp] theorem clearEnable_rdLo (s : State) : (clearEnable s).rdLo = s.rdLo := rfl
@[simp] theorem clearEnable_status (s : State) : (clearEnable s).status = s.status := rfl
@[simp] theorem clearEnable_rdata (s : State) : (clearEnable s).rdata = s.rdata := rfl
@[simp] theorem clearEnable_cols (s : State) : (clearEnable s).cols = s.cols := rfl
@[simp] theorem clearEnable_rows (s : State) : (clearEnable s).rows = s.rows := rfl
@[simp] theorem clearEnable_font (s : State) : (clearEnable s).font = s.font := rfl
@[simp] theorem clearEnable_dispOn (s : State) : (clearEnable s).dispOn = s.dispOn := rfl
@[simp] theorem clearEnable_curOn (s : State) : (clearEnable s).curOn = s.curOn := rfl
@[simp] theorem clearEnable_blinkOn (s : State) : (clearEnable s).blinkOn = s.blinkOn := rfl
@[simp] theorem clearEnable_entryLtr (s : State) : (clearEnable s).entryLtr = s.entryLtr := rfl
@[simp] theorem clearEnable_autoscroll (s : State) :
    (clearEnable s).autoscroll = s.autoscroll := rfl
@[simp] theorem clearEnable_blOn (s : State) : (clearEnable s).blOn = s.blOn := rfl
@[simp] theorem clearEnable_initOk (s : State) : (clearEnable s).initOk = s.initOk := rfl
@[simp] theorem clearEnable_top (s : State) : (clearEnable s).top = s.top := rfl
@[simp] theorem clearEnable_seq (s : State) : (clearEnable s).seq = s.seq := rfl
@[simp] theorem clearEnable_npd (s : State) : (clearEnable s).npd = s.npd := rfl
@[simp] theorem clearEnable_rspValid (s : State) : (clearEnable s).rspValid = s.rspValid := rfl
@[simp] theorem clearEnable_req (s : State) : (clearEnable s).req = s.req := rfl
@[simp] theorem clearEnable_bus (s : State) : (clearEnable s).bus = s.bus := rfl
@[simp] theorem clearEnable_ctl (s : State) : (clearEnable s).ctl = s.ctl := rfl
@[simp] theorem clearEnable_hostIn (s : State) : (clearEnable s).hostIn = s.hostIn := rfl
@[simp] theorem clearEnable_tpIn (s : State) : (clearEnable s).tpIn = s.tpIn := rfl
@[simp] theorem clearEnable_dlIn (s : State) : (clearEnable s).dlIn = s.dlIn := rfl
@[simp] theorem clearEnable_trace (s : State) : (clearEnable s).trace = s.trace := rfl
@[simp] theorem clearEnable_layerOut (s : State) : (clearEnable s).layerOut = s.layerOut := rfl
@[simp] theorem clearEnable_free (s : State) : (clearEnable s).free = s.free := rfl
@[simp] theorem encWord_clearEnable (s : State) (rs' rw' e : Bool) (n' : Nibble) :
    encWord (clearEnable s) rs' rw' e n' = encWord s rs' rw' e n' := rfl

/-! ### landWord -/

@[simp] theorem landWord_prm (s : State) : (landWord s).prm = s.prm := rfl
@[simp] theorem landWord_pm (s : State) : (landWord s).pm = s.pm := rfl
@[simp] theorem landWord_mapValid (s : State) : (landWord s).mapValid = s.mapValid := rfl
@[simp] theorem landWord_blPol (s : State) : (landWord s).blPol = s.blPol := rfl
@[simp] theorem landWord_devAddr (s : State) : (landWord s).devAddr = s.devAddr := rfl
@[simp] theorem landWord_op (s : State) : (landWord s).op = s.op := rfl
@[simp] theorem landWord_a0 (s : State) : (landWord s).a0 = s.a0 := rfl
@[simp] theorem landWord_a1 (s : State) : (landWord s).a1 = s.a1 := rfl
@[simp] theorem landWord_a2 (s : State) : (landWord s).a2 = s.a2 := rfl
@[simp] theorem landWord_val (s : State) : (landWord s).val = s.val := rfl
@[simp] theorem landWord_rs (s : State) : (landWord s).rs = s.rs := rfl
@[simp] theorem landWord_rw (s : State) : (landWord s).rw = s.rw := rfl
@[simp] theorem landWord_len (s : State) : (landWord s).len = s.len := rfl
@[simp] theorem landWord_word (s : State) : (landWord s).word = s.word := rfl
@[simp] theorem landWord_rdHi (s : State) : (landWord s).rdHi = s.rdHi := rfl
@[simp] theorem landWord_rdLo (s : State) : (landWord s).rdLo = s.rdLo := rfl
@[simp] theorem landWord_status (s : State) : (landWord s).status = s.status := rfl
@[simp] theorem landWord_rdata (s : State) : (landWord s).rdata = s.rdata := rfl
@[simp] theorem landWord_cols (s : State) : (landWord s).cols = s.cols := rfl
@[simp] theorem landWord_rows (s : State) : (landWord s).rows = s.rows := rfl
@[simp] theorem landWord_font (s : State) : (landWord s).font = s.font := rfl
@[simp] theorem landWord_dispOn (s : State) : (landWord s).dispOn = s.dispOn := rfl
@[simp] theorem landWord_curOn (s : State) : (landWord s).curOn = s.curOn := rfl
@[simp] theorem landWord_blinkOn (s : State) : (landWord s).blinkOn = s.blinkOn := rfl
@[simp] theorem landWord_entryLtr (s : State) : (landWord s).entryLtr = s.entryLtr := rfl
@[simp] theorem landWord_autoscroll (s : State) : (landWord s).autoscroll = s.autoscroll := rfl
@[simp] theorem landWord_blOn (s : State) : (landWord s).blOn = s.blOn := rfl
@[simp] theorem landWord_initOk (s : State) : (landWord s).initOk = s.initOk := rfl
@[simp] theorem landWord_top (s : State) : (landWord s).top = s.top := rfl
@[simp] theorem landWord_seq (s : State) : (landWord s).seq = s.seq := rfl
@[simp] theorem landWord_npd (s : State) : (landWord s).npd = s.npd := rfl
@[simp] theorem landWord_rspValid (s : State) : (landWord s).rspValid = s.rspValid := rfl
@[simp] theorem landWord_req (s : State) : (landWord s).req = s.req := rfl
@[simp] theorem landWord_bus (s : State) :
    (landWord s).bus = Memory.write s.bus s.devAddr.toNat s.word := rfl
@[simp] theorem landWord_ctl (s : State) :
    (landWord s).ctl = if enableFalls s.pm (Memory.read s.bus s.devAddr.toNat) s.word then s.ctl.latch else s.ctl := rfl
@[simp] theorem landWord_hostIn (s : State) : (landWord s).hostIn = s.hostIn := rfl
@[simp] theorem landWord_tpIn (s : State) : (landWord s).tpIn = s.tpIn := rfl
@[simp] theorem landWord_dlIn (s : State) : (landWord s).dlIn = s.dlIn := rfl
@[simp] theorem landWord_trace (s : State) : (landWord s).trace = s.trace := rfl
@[simp] theorem landWord_layerOut (s : State) : (landWord s).layerOut = s.layerOut := rfl
@[simp] theorem landWord_free (s : State) : (landWord s).free = s.free := rfl
@[simp] theorem encWord_landWord (s : State) (rs' rw' e : Bool) (n' : Nibble) :
    encWord (landWord s) rs' rw' e n' = encWord s rs' rw' e n' := rfl

/-! ### backlightWord -/

@[simp] theorem backlightWord_prm (s : State) : (backlightWord s).prm = s.prm := rfl
@[simp] theorem backlightWord_pm (s : State) : (backlightWord s).pm = s.pm := rfl
@[simp] theorem backlightWord_mapValid (s : State) :
    (backlightWord s).mapValid = s.mapValid := rfl
@[simp] theorem backlightWord_blPol (s : State) : (backlightWord s).blPol = s.blPol := rfl
@[simp] theorem backlightWord_devAddr (s : State) : (backlightWord s).devAddr = s.devAddr := rfl
@[simp] theorem backlightWord_op (s : State) : (backlightWord s).op = s.op := rfl
@[simp] theorem backlightWord_a0 (s : State) : (backlightWord s).a0 = s.a0 := rfl
@[simp] theorem backlightWord_a1 (s : State) : (backlightWord s).a1 = s.a1 := rfl
@[simp] theorem backlightWord_a2 (s : State) : (backlightWord s).a2 = s.a2 := rfl
@[simp] theorem backlightWord_val (s : State) : (backlightWord s).val = s.val := rfl
@[simp] theorem backlightWord_rs (s : State) : (backlightWord s).rs = s.rs := rfl
@[simp] theorem backlightWord_rw (s : State) : (backlightWord s).rw = s.rw := rfl
@[simp] theorem backlightWord_len (s : State) : (backlightWord s).len = s.len := rfl
@[simp] theorem backlightWord_word (s : State) :
    (backlightWord s).word = blMask { s with blOn := s.a0.getLsbD 0 } := rfl
@[simp] theorem backlightWord_rdHi (s : State) : (backlightWord s).rdHi = s.rdHi := rfl
@[simp] theorem backlightWord_rdLo (s : State) : (backlightWord s).rdLo = s.rdLo := rfl
@[simp] theorem backlightWord_status (s : State) : (backlightWord s).status = s.status := rfl
@[simp] theorem backlightWord_rdata (s : State) : (backlightWord s).rdata = s.rdata := rfl
@[simp] theorem backlightWord_cols (s : State) : (backlightWord s).cols = s.cols := rfl
@[simp] theorem backlightWord_rows (s : State) : (backlightWord s).rows = s.rows := rfl
@[simp] theorem backlightWord_font (s : State) : (backlightWord s).font = s.font := rfl
@[simp] theorem backlightWord_dispOn (s : State) : (backlightWord s).dispOn = s.dispOn := rfl
@[simp] theorem backlightWord_curOn (s : State) : (backlightWord s).curOn = s.curOn := rfl
@[simp] theorem backlightWord_blinkOn (s : State) : (backlightWord s).blinkOn = s.blinkOn := rfl
@[simp] theorem backlightWord_entryLtr (s : State) :
    (backlightWord s).entryLtr = s.entryLtr := rfl
@[simp] theorem backlightWord_autoscroll (s : State) :
    (backlightWord s).autoscroll = s.autoscroll := rfl
@[simp] theorem backlightWord_blOn (s : State) : (backlightWord s).blOn = s.a0.getLsbD 0 := rfl
@[simp] theorem backlightWord_initOk (s : State) : (backlightWord s).initOk = s.initOk := rfl
@[simp] theorem backlightWord_top (s : State) : (backlightWord s).top = s.top := rfl
@[simp] theorem backlightWord_seq (s : State) : (backlightWord s).seq = s.seq := rfl
@[simp] theorem backlightWord_npd (s : State) : (backlightWord s).npd = s.npd := rfl
@[simp] theorem backlightWord_rspValid (s : State) :
    (backlightWord s).rspValid = s.rspValid := rfl
@[simp] theorem backlightWord_req (s : State) : (backlightWord s).req = s.req := rfl
@[simp] theorem backlightWord_bus (s : State) : (backlightWord s).bus = s.bus := rfl
@[simp] theorem backlightWord_ctl (s : State) : (backlightWord s).ctl = s.ctl := rfl
@[simp] theorem backlightWord_hostIn (s : State) : (backlightWord s).hostIn = s.hostIn := rfl
@[simp] theorem backlightWord_tpIn (s : State) : (backlightWord s).tpIn = s.tpIn := rfl
@[simp] theorem backlightWord_dlIn (s : State) : (backlightWord s).dlIn = s.dlIn := rfl
@[simp] theorem backlightWord_trace (s : State) : (backlightWord s).trace = s.trace := rfl
@[simp] theorem backlightWord_layerOut (s : State) :
    (backlightWord s).layerOut = s.layerOut := rfl
@[simp] theorem backlightWord_free (s : State) : (backlightWord s).free = s.free := rfl

/-! ### initStart -/

@[simp] theorem initStart_prm (s : State) : (initStart s).prm = s.prm := rfl
@[simp] theorem initStart_pm (s : State) : (initStart s).pm = s.pm := rfl
@[simp] theorem initStart_mapValid (s : State) : (initStart s).mapValid = s.mapValid := rfl
@[simp] theorem initStart_blPol (s : State) : (initStart s).blPol = s.blPol := rfl
@[simp] theorem initStart_devAddr (s : State) : (initStart s).devAddr = s.devAddr := rfl
@[simp] theorem initStart_op (s : State) : (initStart s).op = s.op := rfl
@[simp] theorem initStart_a0 (s : State) : (initStart s).a0 = s.a0 := rfl
@[simp] theorem initStart_a1 (s : State) : (initStart s).a1 = s.a1 := rfl
@[simp] theorem initStart_a2 (s : State) : (initStart s).a2 = s.a2 := rfl
@[simp] theorem initStart_val (s : State) : (initStart s).val = s.val := rfl
@[simp] theorem initStart_rs (s : State) : (initStart s).rs = s.rs := rfl
@[simp] theorem initStart_rw (s : State) : (initStart s).rw = s.rw := rfl
@[simp] theorem initStart_len (s : State) : (initStart s).len = s.len := rfl
@[simp] theorem initStart_word (s : State) : (initStart s).word = s.word := rfl
@[simp] theorem initStart_rdHi (s : State) : (initStart s).rdHi = s.rdHi := rfl
@[simp] theorem initStart_rdLo (s : State) : (initStart s).rdLo = s.rdLo := rfl
@[simp] theorem initStart_status (s : State) : (initStart s).status = s.status := rfl
@[simp] theorem initStart_rdata (s : State) : (initStart s).rdata = s.rdata := rfl
@[simp] theorem initStart_cols (s : State) : (initStart s).cols = s.a0 := rfl
@[simp] theorem initStart_rows (s : State) : (initStart s).rows = s.a1 := rfl
@[simp] theorem initStart_font (s : State) :
    (initStart s).font = effectiveFont (requestedFont s) s.a1 := rfl
@[simp] theorem initStart_dispOn (s : State) : (initStart s).dispOn = s.dispOn := rfl
@[simp] theorem initStart_curOn (s : State) : (initStart s).curOn = s.curOn := rfl
@[simp] theorem initStart_blinkOn (s : State) : (initStart s).blinkOn = s.blinkOn := rfl
@[simp] theorem initStart_entryLtr (s : State) : (initStart s).entryLtr = s.entryLtr := rfl
@[simp] theorem initStart_autoscroll (s : State) : (initStart s).autoscroll = s.autoscroll := rfl
@[simp] theorem initStart_blOn (s : State) : (initStart s).blOn = s.blOn := rfl
@[simp] theorem initStart_initOk (s : State) : (initStart s).initOk = false := rfl
@[simp] theorem initStart_top (s : State) : (initStart s).top = s.top := rfl
@[simp] theorem initStart_seq (s : State) : (initStart s).seq = 0#4 := rfl
@[simp] theorem initStart_npd (s : State) : (initStart s).npd = s.npd := rfl
@[simp] theorem initStart_rspValid (s : State) : (initStart s).rspValid = s.rspValid := rfl
@[simp] theorem initStart_req (s : State) : (initStart s).req = s.req := rfl
@[simp] theorem initStart_bus (s : State) : (initStart s).bus = s.bus := rfl
@[simp] theorem initStart_ctl (s : State) : (initStart s).ctl = .unknown := rfl
@[simp] theorem initStart_hostIn (s : State) : (initStart s).hostIn = s.hostIn := rfl
@[simp] theorem initStart_tpIn (s : State) : (initStart s).tpIn = s.tpIn := rfl
@[simp] theorem initStart_dlIn (s : State) : (initStart s).dlIn = s.dlIn := rfl
@[simp] theorem initStart_trace (s : State) : (initStart s).trace = s.trace := rfl
@[simp] theorem initStart_layerOut (s : State) : (initStart s).layerOut = s.layerOut := rfl
@[simp] theorem initStart_free (s : State) : (initStart s).free = s.free := rfl
@[simp] theorem encWord_initStart (s : State) (rs' rw' e : Bool) (n' : Nibble) :
    encWord (initStart s) rs' rw' e n' = encWord s rs' rw' e n' := rfl

/-! ### initFlags -/

@[simp] theorem initFlags_prm (s : State) : (initFlags s).prm = s.prm := rfl
@[simp] theorem initFlags_pm (s : State) : (initFlags s).pm = s.pm := rfl
@[simp] theorem initFlags_mapValid (s : State) : (initFlags s).mapValid = s.mapValid := rfl
@[simp] theorem initFlags_blPol (s : State) : (initFlags s).blPol = s.blPol := rfl
@[simp] theorem initFlags_devAddr (s : State) : (initFlags s).devAddr = s.devAddr := rfl
@[simp] theorem initFlags_op (s : State) : (initFlags s).op = s.op := rfl
@[simp] theorem initFlags_a0 (s : State) : (initFlags s).a0 = s.a0 := rfl
@[simp] theorem initFlags_a1 (s : State) : (initFlags s).a1 = s.a1 := rfl
@[simp] theorem initFlags_a2 (s : State) : (initFlags s).a2 = s.a2 := rfl
@[simp] theorem initFlags_val (s : State) : (initFlags s).val = s.val := rfl
@[simp] theorem initFlags_rs (s : State) : (initFlags s).rs = s.rs := rfl
@[simp] theorem initFlags_rw (s : State) : (initFlags s).rw = s.rw := rfl
@[simp] theorem initFlags_len (s : State) : (initFlags s).len = s.len := rfl
@[simp] theorem initFlags_word (s : State) : (initFlags s).word = s.word := rfl
@[simp] theorem initFlags_rdHi (s : State) : (initFlags s).rdHi = s.rdHi := rfl
@[simp] theorem initFlags_rdLo (s : State) : (initFlags s).rdLo = s.rdLo := rfl
@[simp] theorem initFlags_status (s : State) : (initFlags s).status = s.status := rfl
@[simp] theorem initFlags_rdata (s : State) : (initFlags s).rdata = s.rdata := rfl
@[simp] theorem initFlags_cols (s : State) : (initFlags s).cols = s.cols := rfl
@[simp] theorem initFlags_rows (s : State) : (initFlags s).rows = s.rows := rfl
@[simp] theorem initFlags_font (s : State) : (initFlags s).font = s.font := rfl
@[simp] theorem initFlags_dispOn (s : State) : (initFlags s).dispOn = true := rfl
@[simp] theorem initFlags_curOn (s : State) : (initFlags s).curOn = false := rfl
@[simp] theorem initFlags_blinkOn (s : State) : (initFlags s).blinkOn = false := rfl
@[simp] theorem initFlags_entryLtr (s : State) : (initFlags s).entryLtr = true := rfl
@[simp] theorem initFlags_autoscroll (s : State) : (initFlags s).autoscroll = false := rfl
@[simp] theorem initFlags_blOn (s : State) : (initFlags s).blOn = s.blOn := rfl
@[simp] theorem initFlags_initOk (s : State) : (initFlags s).initOk = true := rfl
@[simp] theorem initFlags_top (s : State) : (initFlags s).top = s.top := rfl
@[simp] theorem initFlags_seq (s : State) : (initFlags s).seq = s.seq := rfl
@[simp] theorem initFlags_npd (s : State) : (initFlags s).npd = s.npd := rfl
@[simp] theorem initFlags_rspValid (s : State) : (initFlags s).rspValid = s.rspValid := rfl
@[simp] theorem initFlags_req (s : State) : (initFlags s).req = s.req := rfl
@[simp] theorem initFlags_bus (s : State) : (initFlags s).bus = s.bus := rfl
@[simp] theorem initFlags_ctl (s : State) : (initFlags s).ctl = s.ctl := rfl
@[simp] theorem initFlags_hostIn (s : State) : (initFlags s).hostIn = s.hostIn := rfl
@[simp] theorem initFlags_tpIn (s : State) : (initFlags s).tpIn = s.tpIn := rfl
@[simp] theorem initFlags_dlIn (s : State) : (initFlags s).dlIn = s.dlIn := rfl
@[simp] theorem initFlags_trace (s : State) : (initFlags s).trace = s.trace := rfl
@[simp] theorem initFlags_layerOut (s : State) : (initFlags s).layerOut = s.layerOut := rfl
@[simp] theorem initFlags_free (s : State) : (initFlags s).free = s.free := rfl
@[simp] theorem encWord_initFlags (s : State) (rs' rw' e : Bool) (n' : Nibble) :
    encWord (initFlags s) rs' rw' e n' = encWord s rs' rw' e n' := rfl

/-! ### initFailedFlags -/

@[simp] theorem initFailedFlags_prm (s : State) : (initFailedFlags s).prm = s.prm := rfl
@[simp] theorem initFailedFlags_pm (s : State) : (initFailedFlags s).pm = s.pm := rfl
@[simp] theorem initFailedFlags_mapValid (s : State) :
    (initFailedFlags s).mapValid = s.mapValid := rfl
@[simp] theorem initFailedFlags_blPol (s : State) : (initFailedFlags s).blPol = s.blPol := rfl
@[simp] theorem initFailedFlags_devAddr (s : State) :
    (initFailedFlags s).devAddr = s.devAddr := rfl
@[simp] theorem initFailedFlags_op (s : State) : (initFailedFlags s).op = s.op := rfl
@[simp] theorem initFailedFlags_a0 (s : State) : (initFailedFlags s).a0 = s.a0 := rfl
@[simp] theorem initFailedFlags_a1 (s : State) : (initFailedFlags s).a1 = s.a1 := rfl
@[simp] theorem initFailedFlags_a2 (s : State) : (initFailedFlags s).a2 = s.a2 := rfl
@[simp] theorem initFailedFlags_val (s : State) : (initFailedFlags s).val = s.val := rfl
@[simp] theorem initFailedFlags_rs (s : State) : (initFailedFlags s).rs = s.rs := rfl
@[simp] theorem initFailedFlags_rw (s : State) : (initFailedFlags s).rw = s.rw := rfl
@[simp] theorem initFailedFlags_len (s : State) : (initFailedFlags s).len = s.len := rfl
@[simp] theorem initFailedFlags_word (s : State) : (initFailedFlags s).word = s.word := rfl
@[simp] theorem initFailedFlags_rdHi (s : State) : (initFailedFlags s).rdHi = s.rdHi := rfl
@[simp] theorem initFailedFlags_rdLo (s : State) : (initFailedFlags s).rdLo = s.rdLo := rfl
@[simp] theorem initFailedFlags_status (s : State) : (initFailedFlags s).status = s.status := rfl
@[simp] theorem initFailedFlags_rdata (s : State) : (initFailedFlags s).rdata = s.rdata := rfl
@[simp] theorem initFailedFlags_cols (s : State) : (initFailedFlags s).cols = s.cols := rfl
@[simp] theorem initFailedFlags_rows (s : State) : (initFailedFlags s).rows = s.rows := rfl
@[simp] theorem initFailedFlags_font (s : State) : (initFailedFlags s).font = s.font := rfl
@[simp] theorem initFailedFlags_blOn (s : State) : (initFailedFlags s).blOn = s.blOn := rfl
@[simp] theorem initFailedFlags_initOk (s : State) : (initFailedFlags s).initOk = false := rfl
@[simp] theorem initFailedFlags_top (s : State) : (initFailedFlags s).top = s.top := rfl
@[simp] theorem initFailedFlags_seq (s : State) : (initFailedFlags s).seq = s.seq := rfl
@[simp] theorem initFailedFlags_npd (s : State) : (initFailedFlags s).npd = s.npd := rfl
@[simp] theorem initFailedFlags_rspValid (s : State) :
    (initFailedFlags s).rspValid = s.rspValid := rfl
@[simp] theorem initFailedFlags_req (s : State) : (initFailedFlags s).req = s.req := rfl
@[simp] theorem initFailedFlags_bus (s : State) : (initFailedFlags s).bus = s.bus := rfl
@[simp] theorem initFailedFlags_ctl (s : State) : (initFailedFlags s).ctl = .unknown := rfl
@[simp] theorem initFailedFlags_hostIn (s : State) : (initFailedFlags s).hostIn = s.hostIn := rfl
@[simp] theorem initFailedFlags_tpIn (s : State) : (initFailedFlags s).tpIn = s.tpIn := rfl
@[simp] theorem initFailedFlags_dlIn (s : State) : (initFailedFlags s).dlIn = s.dlIn := rfl
@[simp] theorem initFailedFlags_trace (s : State) : (initFailedFlags s).trace = s.trace := rfl
@[simp] theorem initFailedFlags_layerOut (s : State) :
    (initFailedFlags s).layerOut = s.layerOut := rfl
@[simp] theorem initFailedFlags_free (s : State) : (initFailedFlags s).free = s.free + 1 := rfl
@[simp] theorem encWord_initFailedFlags (s : State) (rs' rw' e : Bool) (n' : Nibble) :
    encWord (initFailedFlags s) rs' rw' e n' = encWord s rs' rw' e n' := rfl

/-! ### displayFlags -/

@[simp] theorem displayFlags_prm (d c b : Bool) (s : State) :
    (displayFlags d c b s).prm = s.prm := rfl
@[simp] theorem displayFlags_pm (d c b : Bool) (s : State) :
    (displayFlags d c b s).pm = s.pm := rfl
@[simp] theorem displayFlags_mapValid (d c b : Bool) (s : State) :
    (displayFlags d c b s).mapValid = s.mapValid := rfl
@[simp] theorem displayFlags_blPol (d c b : Bool) (s : State) :
    (displayFlags d c b s).blPol = s.blPol := rfl
@[simp] theorem displayFlags_devAddr (d c b : Bool) (s : State) :
    (displayFlags d c b s).devAddr = s.devAddr := rfl
@[simp] theorem displayFlags_op (d c b : Bool) (s : State) :
    (displayFlags d c b s).op = s.op := rfl
@[simp] theorem displayFlags_a0 (d c b : Bool) (s : State) :
    (displayFlags d c b s).a0 = s.a0 := rfl
@[simp] theorem displayFlags_a1 (d c b : Bool) (s : State) :
    (displayFlags d c b s).a1 = s.a1 := rfl
@[simp] theorem displayFlags_a2 (d c b : Bool) (s : State) :
    (displayFlags d c b s).a2 = s.a2 := rfl
@[simp] theorem displayFlags_val (d c b : Bool) (s : State) :
    (displayFlags d c b s).val = s.val := rfl
@[simp] theorem displayFlags_rs (d c b : Bool) (s : State) :
    (displayFlags d c b s).rs = s.rs := rfl
@[simp] theorem displayFlags_rw (d c b : Bool) (s : State) :
    (displayFlags d c b s).rw = s.rw := rfl
@[simp] theorem displayFlags_len (d c b : Bool) (s : State) :
    (displayFlags d c b s).len = s.len := rfl
@[simp] theorem displayFlags_word (d c b : Bool) (s : State) :
    (displayFlags d c b s).word = s.word := rfl
@[simp] theorem displayFlags_rdHi (d c b : Bool) (s : State) :
    (displayFlags d c b s).rdHi = s.rdHi := rfl
@[simp] theorem displayFlags_rdLo (d c b : Bool) (s : State) :
    (displayFlags d c b s).rdLo = s.rdLo := rfl
@[simp] theorem displayFlags_status (d c b : Bool) (s : State) :
    (displayFlags d c b s).status = s.status := rfl
@[simp] theorem displayFlags_rdata (d c b : Bool) (s : State) :
    (displayFlags d c b s).rdata = s.rdata := rfl
@[simp] theorem displayFlags_cols (d c b : Bool) (s : State) :
    (displayFlags d c b s).cols = s.cols := rfl
@[simp] theorem displayFlags_rows (d c b : Bool) (s : State) :
    (displayFlags d c b s).rows = s.rows := rfl
@[simp] theorem displayFlags_font (d c b : Bool) (s : State) :
    (displayFlags d c b s).font = s.font := rfl
@[simp] theorem displayFlags_dispOn (d c b : Bool) (s : State) :
    (displayFlags d c b s).dispOn = d := rfl
@[simp] theorem displayFlags_curOn (d c b : Bool) (s : State) :
    (displayFlags d c b s).curOn = c := rfl
@[simp] theorem displayFlags_blinkOn (d c b : Bool) (s : State) :
    (displayFlags d c b s).blinkOn = b := rfl
@[simp] theorem displayFlags_entryLtr (d c b : Bool) (s : State) :
    (displayFlags d c b s).entryLtr = s.entryLtr := rfl
@[simp] theorem displayFlags_autoscroll (d c b : Bool) (s : State) :
    (displayFlags d c b s).autoscroll = s.autoscroll := rfl
@[simp] theorem displayFlags_blOn (d c b : Bool) (s : State) :
    (displayFlags d c b s).blOn = s.blOn := rfl
@[simp] theorem displayFlags_initOk (d c b : Bool) (s : State) :
    (displayFlags d c b s).initOk = s.initOk := rfl
@[simp] theorem displayFlags_top (d c b : Bool) (s : State) :
    (displayFlags d c b s).top = s.top := rfl
@[simp] theorem displayFlags_seq (d c b : Bool) (s : State) :
    (displayFlags d c b s).seq = s.seq := rfl
@[simp] theorem displayFlags_npd (d c b : Bool) (s : State) :
    (displayFlags d c b s).npd = s.npd := rfl
@[simp] theorem displayFlags_rspValid (d c b : Bool) (s : State) :
    (displayFlags d c b s).rspValid = s.rspValid := rfl
@[simp] theorem displayFlags_req (d c b : Bool) (s : State) :
    (displayFlags d c b s).req = s.req := rfl
@[simp] theorem displayFlags_bus (d c b : Bool) (s : State) :
    (displayFlags d c b s).bus = s.bus := rfl
@[simp] theorem displayFlags_ctl (d c b : Bool) (s : State) :
    (displayFlags d c b s).ctl = s.ctl := rfl
@[simp] theorem displayFlags_hostIn (d c b : Bool) (s : State) :
    (displayFlags d c b s).hostIn = s.hostIn := rfl
@[simp] theorem displayFlags_tpIn (d c b : Bool) (s : State) :
    (displayFlags d c b s).tpIn = s.tpIn := rfl
@[simp] theorem displayFlags_dlIn (d c b : Bool) (s : State) :
    (displayFlags d c b s).dlIn = s.dlIn := rfl
@[simp] theorem displayFlags_trace (d c b : Bool) (s : State) :
    (displayFlags d c b s).trace = s.trace := rfl
@[simp] theorem displayFlags_layerOut (d c b : Bool) (s : State) :
    (displayFlags d c b s).layerOut = s.layerOut := rfl
@[simp] theorem displayFlags_free (d c b : Bool) (s : State) :
    (displayFlags d c b s).free = s.free := rfl
@[simp] theorem encWord_displayFlags (d c b : Bool) (s : State) (rs' rw' e : Bool) (n' : Nibble) :
    encWord (displayFlags d c b s) rs' rw' e n' = encWord s rs' rw' e n' := rfl

/-! ### entryFlags -/

@[simp] theorem entryFlags_prm (ltr auto : Bool) (s : State) :
    (entryFlags ltr auto s).prm = s.prm := rfl
@[simp] theorem entryFlags_pm (ltr auto : Bool) (s : State) :
    (entryFlags ltr auto s).pm = s.pm := rfl
@[simp] theorem entryFlags_mapValid (ltr auto : Bool) (s : State) :
    (entryFlags ltr auto s).mapValid = s.mapValid := rfl
@[simp] theorem entryFlags_blPol (ltr auto : Bool) (s : State) :
    (entryFlags ltr auto s).blPol = s.blPol := rfl
@[simp] theorem entryFlags_devAddr (ltr auto : Bool) (s : State) :
    (entryFlags ltr auto s).devAddr = s.devAddr := rfl
@[simp] theorem entryFlags_op (ltr auto : Bool) (s : State) :
    (entryFlags ltr auto s).op = s.op := rfl
@[simp] theorem entryFlags_a0 (ltr auto : Bool) (s : State) :
    (entryFlags ltr auto s).a0 = s.a0 := rfl
@[simp] theorem entryFlags_a1 (ltr auto : Bool) (s : State) :
    (entryFlags ltr auto s).a1 = s.a1 := rfl
@[simp] theorem entryFlags_a2 (ltr auto : Bool) (s : State) :
    (entryFlags ltr auto s).a2 = s.a2 := rfl
@[simp] theorem entryFlags_val (ltr auto : Bool) (s : State) :
    (entryFlags ltr auto s).val = s.val := rfl
@[simp] theorem entryFlags_rs (ltr auto : Bool) (s : State) :
    (entryFlags ltr auto s).rs = s.rs := rfl
@[simp] theorem entryFlags_rw (ltr auto : Bool) (s : State) :
    (entryFlags ltr auto s).rw = s.rw := rfl
@[simp] theorem entryFlags_len (ltr auto : Bool) (s : State) :
    (entryFlags ltr auto s).len = s.len := rfl
@[simp] theorem entryFlags_word (ltr auto : Bool) (s : State) :
    (entryFlags ltr auto s).word = s.word := rfl
@[simp] theorem entryFlags_rdHi (ltr auto : Bool) (s : State) :
    (entryFlags ltr auto s).rdHi = s.rdHi := rfl
@[simp] theorem entryFlags_rdLo (ltr auto : Bool) (s : State) :
    (entryFlags ltr auto s).rdLo = s.rdLo := rfl
@[simp] theorem entryFlags_status (ltr auto : Bool) (s : State) :
    (entryFlags ltr auto s).status = s.status := rfl
@[simp] theorem entryFlags_rdata (ltr auto : Bool) (s : State) :
    (entryFlags ltr auto s).rdata = s.rdata := rfl
@[simp] theorem entryFlags_cols (ltr auto : Bool) (s : State) :
    (entryFlags ltr auto s).cols = s.cols := rfl
@[simp] theorem entryFlags_rows (ltr auto : Bool) (s : State) :
    (entryFlags ltr auto s).rows = s.rows := rfl
@[simp] theorem entryFlags_font (ltr auto : Bool) (s : State) :
    (entryFlags ltr auto s).font = s.font := rfl
@[simp] theorem entryFlags_dispOn (ltr auto : Bool) (s : State) :
    (entryFlags ltr auto s).dispOn = s.dispOn := rfl
@[simp] theorem entryFlags_curOn (ltr auto : Bool) (s : State) :
    (entryFlags ltr auto s).curOn = s.curOn := rfl
@[simp] theorem entryFlags_blinkOn (ltr auto : Bool) (s : State) :
    (entryFlags ltr auto s).blinkOn = s.blinkOn := rfl
@[simp] theorem entryFlags_entryLtr (ltr auto : Bool) (s : State) :
    (entryFlags ltr auto s).entryLtr = ltr := rfl
@[simp] theorem entryFlags_autoscroll (ltr auto : Bool) (s : State) :
    (entryFlags ltr auto s).autoscroll = auto := rfl
@[simp] theorem entryFlags_blOn (ltr auto : Bool) (s : State) :
    (entryFlags ltr auto s).blOn = s.blOn := rfl
@[simp] theorem entryFlags_initOk (ltr auto : Bool) (s : State) :
    (entryFlags ltr auto s).initOk = s.initOk := rfl
@[simp] theorem entryFlags_top (ltr auto : Bool) (s : State) :
    (entryFlags ltr auto s).top = s.top := rfl
@[simp] theorem entryFlags_seq (ltr auto : Bool) (s : State) :
    (entryFlags ltr auto s).seq = s.seq := rfl
@[simp] theorem entryFlags_npd (ltr auto : Bool) (s : State) :
    (entryFlags ltr auto s).npd = s.npd := rfl
@[simp] theorem entryFlags_rspValid (ltr auto : Bool) (s : State) :
    (entryFlags ltr auto s).rspValid = s.rspValid := rfl
@[simp] theorem entryFlags_req (ltr auto : Bool) (s : State) :
    (entryFlags ltr auto s).req = s.req := rfl
@[simp] theorem entryFlags_bus (ltr auto : Bool) (s : State) :
    (entryFlags ltr auto s).bus = s.bus := rfl
@[simp] theorem entryFlags_ctl (ltr auto : Bool) (s : State) :
    (entryFlags ltr auto s).ctl = s.ctl := rfl
@[simp] theorem entryFlags_hostIn (ltr auto : Bool) (s : State) :
    (entryFlags ltr auto s).hostIn = s.hostIn := rfl
@[simp] theorem entryFlags_tpIn (ltr auto : Bool) (s : State) :
    (entryFlags ltr auto s).tpIn = s.tpIn := rfl
@[simp] theorem entryFlags_dlIn (ltr auto : Bool) (s : State) :
    (entryFlags ltr auto s).dlIn = s.dlIn := rfl
@[simp] theorem entryFlags_trace (ltr auto : Bool) (s : State) :
    (entryFlags ltr auto s).trace = s.trace := rfl
@[simp] theorem entryFlags_layerOut (ltr auto : Bool) (s : State) :
    (entryFlags ltr auto s).layerOut = s.layerOut := rfl
@[simp] theorem entryFlags_free (ltr auto : Bool) (s : State) :
    (entryFlags ltr auto s).free = s.free := rfl
@[simp] theorem encWord_entryFlags (ltr auto : Bool) (s : State) (rs' rw' e : Bool) (n' : Nibble) :
    encWord (entryFlags ltr auto s) rs' rw' e n' = encWord s rs' rw' e n' := rfl

/-! ### layerIssue -/

@[simp] theorem layerIssue_prm (w : CmdWord) (s : State) : (layerIssue w s).prm = s.prm := rfl
@[simp] theorem layerIssue_pm (w : CmdWord) (s : State) : (layerIssue w s).pm = s.pm := rfl
@[simp] theorem layerIssue_mapValid (w : CmdWord) (s : State) :
    (layerIssue w s).mapValid = s.mapValid := rfl
@[simp] theorem layerIssue_blPol (w : CmdWord) (s : State) :
    (layerIssue w s).blPol = s.blPol := rfl
@[simp] theorem layerIssue_devAddr (w : CmdWord) (s : State) :
    (layerIssue w s).devAddr = s.devAddr := rfl
@[simp] theorem layerIssue_op (w : CmdWord) (s : State) : (layerIssue w s).op = s.op := rfl
@[simp] theorem layerIssue_a0 (w : CmdWord) (s : State) : (layerIssue w s).a0 = s.a0 := rfl
@[simp] theorem layerIssue_a1 (w : CmdWord) (s : State) : (layerIssue w s).a1 = s.a1 := rfl
@[simp] theorem layerIssue_a2 (w : CmdWord) (s : State) : (layerIssue w s).a2 = s.a2 := rfl
@[simp] theorem layerIssue_val (w : CmdWord) (s : State) : (layerIssue w s).val = s.val := rfl
@[simp] theorem layerIssue_rs (w : CmdWord) (s : State) : (layerIssue w s).rs = s.rs := rfl
@[simp] theorem layerIssue_rw (w : CmdWord) (s : State) : (layerIssue w s).rw = s.rw := rfl
@[simp] theorem layerIssue_len (w : CmdWord) (s : State) : (layerIssue w s).len = s.len := rfl
@[simp] theorem layerIssue_word (w : CmdWord) (s : State) : (layerIssue w s).word = s.word := rfl
@[simp] theorem layerIssue_rdHi (w : CmdWord) (s : State) : (layerIssue w s).rdHi = s.rdHi := rfl
@[simp] theorem layerIssue_rdLo (w : CmdWord) (s : State) : (layerIssue w s).rdLo = s.rdLo := rfl
@[simp] theorem layerIssue_status (w : CmdWord) (s : State) :
    (layerIssue w s).status = s.status := rfl
@[simp] theorem layerIssue_rdata (w : CmdWord) (s : State) :
    (layerIssue w s).rdata = s.rdata := rfl
@[simp] theorem layerIssue_cols (w : CmdWord) (s : State) : (layerIssue w s).cols = s.cols := rfl
@[simp] theorem layerIssue_rows (w : CmdWord) (s : State) : (layerIssue w s).rows = s.rows := rfl
@[simp] theorem layerIssue_font (w : CmdWord) (s : State) : (layerIssue w s).font = s.font := rfl
@[simp] theorem layerIssue_dispOn (w : CmdWord) (s : State) :
    (layerIssue w s).dispOn = s.dispOn := rfl
@[simp] theorem layerIssue_curOn (w : CmdWord) (s : State) :
    (layerIssue w s).curOn = s.curOn := rfl
@[simp] theorem layerIssue_blinkOn (w : CmdWord) (s : State) :
    (layerIssue w s).blinkOn = s.blinkOn := rfl
@[simp] theorem layerIssue_entryLtr (w : CmdWord) (s : State) :
    (layerIssue w s).entryLtr = s.entryLtr := rfl
@[simp] theorem layerIssue_autoscroll (w : CmdWord) (s : State) :
    (layerIssue w s).autoscroll = s.autoscroll := rfl
@[simp] theorem layerIssue_blOn (w : CmdWord) (s : State) : (layerIssue w s).blOn = s.blOn := rfl
@[simp] theorem layerIssue_initOk (w : CmdWord) (s : State) :
    (layerIssue w s).initOk = s.initOk := rfl
@[simp] theorem layerIssue_top (w : CmdWord) (s : State) : (layerIssue w s).top = s.top := rfl
@[simp] theorem layerIssue_seq (w : CmdWord) (s : State) : (layerIssue w s).seq = s.seq := rfl
@[simp] theorem layerIssue_npd (w : CmdWord) (s : State) : (layerIssue w s).npd = s.npd := rfl
@[simp] theorem layerIssue_rspValid (w : CmdWord) (s : State) :
    (layerIssue w s).rspValid = s.rspValid := rfl
@[simp] theorem layerIssue_req (w : CmdWord) (s : State) : (layerIssue w s).req = s.req := rfl
@[simp] theorem layerIssue_bus (w : CmdWord) (s : State) : (layerIssue w s).bus = s.bus := rfl
@[simp] theorem layerIssue_ctl (w : CmdWord) (s : State) : (layerIssue w s).ctl = s.ctl := rfl
@[simp] theorem layerIssue_hostIn (w : CmdWord) (s : State) :
    (layerIssue w s).hostIn = s.hostIn := rfl
@[simp] theorem layerIssue_tpIn (w : CmdWord) (s : State) : (layerIssue w s).tpIn = s.tpIn := rfl
@[simp] theorem layerIssue_dlIn (w : CmdWord) (s : State) : (layerIssue w s).dlIn = s.dlIn := rfl
@[simp] theorem layerIssue_trace (w : CmdWord) (s : State) :
    (layerIssue w s).trace = s.trace := rfl
@[simp] theorem layerIssue_layerOut (w : CmdWord) (s : State) :
    (layerIssue w s).layerOut = s.layerOut ++ [LayerEvent.issue w] := rfl
@[simp] theorem layerIssue_free (w : CmdWord) (s : State) : (layerIssue w s).free = s.free := rfl
@[simp] theorem encWord_layerIssue (w : CmdWord) (s : State) (rs' rw' e : Bool) (n' : Nibble) :
    encWord (layerIssue w s) rs' rw' e n' = encWord s rs' rw' e n' := rfl

/-! ### takeAnswer -/

@[simp] theorem takeAnswer_prm (s : State) :
    (takeAnswer s).prm = s.prm := by
  unfold takeAnswer; split <;> rfl
@[simp] theorem takeAnswer_pm (s : State) :
    (takeAnswer s).pm = s.pm := by
  unfold takeAnswer; split <;> rfl
@[simp] theorem takeAnswer_mapValid (s : State) :
    (takeAnswer s).mapValid = s.mapValid := by
  unfold takeAnswer; split <;> rfl
@[simp] theorem takeAnswer_blPol (s : State) :
    (takeAnswer s).blPol = s.blPol := by
  unfold takeAnswer; split <;> rfl
@[simp] theorem takeAnswer_devAddr (s : State) :
    (takeAnswer s).devAddr = s.devAddr := by
  unfold takeAnswer; split <;> rfl
@[simp] theorem takeAnswer_op (s : State) :
    (takeAnswer s).op = s.op := by
  unfold takeAnswer; split <;> rfl
@[simp] theorem takeAnswer_a0 (s : State) :
    (takeAnswer s).a0 = s.a0 := by
  unfold takeAnswer; split <;> rfl
@[simp] theorem takeAnswer_a1 (s : State) :
    (takeAnswer s).a1 = s.a1 := by
  unfold takeAnswer; split <;> rfl
@[simp] theorem takeAnswer_a2 (s : State) :
    (takeAnswer s).a2 = s.a2 := by
  unfold takeAnswer; split <;> rfl
@[simp] theorem takeAnswer_val (s : State) :
    (takeAnswer s).val = s.val := by
  unfold takeAnswer; split <;> rfl
@[simp] theorem takeAnswer_rs (s : State) :
    (takeAnswer s).rs = s.rs := by
  unfold takeAnswer; split <;> rfl
@[simp] theorem takeAnswer_rw (s : State) :
    (takeAnswer s).rw = s.rw := by
  unfold takeAnswer; split <;> rfl
@[simp] theorem takeAnswer_len (s : State) :
    (takeAnswer s).len = s.len := by
  unfold takeAnswer; split <;> rfl
@[simp] theorem takeAnswer_word (s : State) :
    (takeAnswer s).word = s.word := by
  unfold takeAnswer; split <;> rfl
@[simp] theorem takeAnswer_rdHi (s : State) :
    (takeAnswer s).rdHi = s.rdHi := by
  unfold takeAnswer; split <;> rfl
@[simp] theorem takeAnswer_rdLo (s : State) :
    (takeAnswer s).rdLo = s.rdLo := by
  unfold takeAnswer; split <;> rfl
@[simp] theorem takeAnswer_status (s : State) :
    (takeAnswer s).status = s.status := by
  unfold takeAnswer; split <;> rfl
@[simp] theorem takeAnswer_rdata (s : State) :
    (takeAnswer s).rdata = s.rdata := by
  unfold takeAnswer; split <;> rfl
@[simp] theorem takeAnswer_cols (s : State) :
    (takeAnswer s).cols = s.cols := by
  unfold takeAnswer; split <;> rfl
@[simp] theorem takeAnswer_rows (s : State) :
    (takeAnswer s).rows = s.rows := by
  unfold takeAnswer; split <;> rfl
@[simp] theorem takeAnswer_font (s : State) :
    (takeAnswer s).font = s.font := by
  unfold takeAnswer; split <;> rfl
@[simp] theorem takeAnswer_dispOn (s : State) :
    (takeAnswer s).dispOn = s.dispOn := by
  unfold takeAnswer; split <;> rfl
@[simp] theorem takeAnswer_curOn (s : State) :
    (takeAnswer s).curOn = s.curOn := by
  unfold takeAnswer; split <;> rfl
@[simp] theorem takeAnswer_blinkOn (s : State) :
    (takeAnswer s).blinkOn = s.blinkOn := by
  unfold takeAnswer; split <;> rfl
@[simp] theorem takeAnswer_entryLtr (s : State) :
    (takeAnswer s).entryLtr = s.entryLtr := by
  unfold takeAnswer; split <;> rfl
@[simp] theorem takeAnswer_autoscroll (s : State) :
    (takeAnswer s).autoscroll = s.autoscroll := by
  unfold takeAnswer; split <;> rfl
@[simp] theorem takeAnswer_blOn (s : State) :
    (takeAnswer s).blOn = s.blOn := by
  unfold takeAnswer; split <;> rfl
@[simp] theorem takeAnswer_initOk (s : State) :
    (takeAnswer s).initOk = s.initOk := by
  unfold takeAnswer; split <;> rfl
@[simp] theorem takeAnswer_top (s : State) :
    (takeAnswer s).top = s.top := by
  unfold takeAnswer; split <;> rfl
@[simp] theorem takeAnswer_seq (s : State) :
    (takeAnswer s).seq = s.seq := by
  unfold takeAnswer; split <;> rfl
@[simp] theorem takeAnswer_npd (s : State) :
    (takeAnswer s).npd = s.npd := by
  unfold takeAnswer; split <;> rfl
@[simp] theorem takeAnswer_rspValid (s : State) :
    (takeAnswer s).rspValid = s.rspValid := by
  unfold takeAnswer; split <;> rfl
@[simp] theorem takeAnswer_req (s : State) :
    (takeAnswer s).req = s.req := by
  unfold takeAnswer; split <;> rfl
@[simp] theorem takeAnswer_bus (s : State) :
    (takeAnswer s).bus = s.bus := by
  unfold takeAnswer; split <;> rfl
@[simp] theorem takeAnswer_ctl (s : State) :
    (takeAnswer s).ctl = s.ctl := by
  unfold takeAnswer; split <;> rfl
@[simp] theorem takeAnswer_hostIn (s : State) :
    (takeAnswer s).hostIn = s.hostIn := by
  unfold takeAnswer; split <;> rfl
@[simp] theorem takeAnswer_tpIn (s : State) :
    (takeAnswer s).tpIn = s.tpIn.tail := by
  unfold takeAnswer; split <;> simp_all
@[simp] theorem takeAnswer_dlIn (s : State) :
    (takeAnswer s).dlIn = s.dlIn := by
  unfold takeAnswer; split <;> rfl
@[simp] theorem takeAnswer_trace (s : State) :
    (takeAnswer s).trace = s.trace := by
  unfold takeAnswer; split <;> rfl
@[simp] theorem takeAnswer_layerOut (s : State) :
    (takeAnswer s).layerOut = s.layerOut := by
  unfold takeAnswer; split <;> rfl
@[simp] theorem takeAnswer_free (s : State) :
    (takeAnswer s).free = s.free + (1 - s.tpIn.length) := by
  unfold takeAnswer; split <;> simp_all

/-! ### maybeLandWord -/

@[simp] theorem maybeLandWord_prm (s : State) : (maybeLandWord s).prm = s.prm := rfl
@[simp] theorem maybeLandWord_pm (s : State) : (maybeLandWord s).pm = s.pm := rfl
@[simp] theorem maybeLandWord_mapValid (s : State) :
    (maybeLandWord s).mapValid = s.mapValid := rfl
@[simp] theorem maybeLandWord_blPol (s : State) : (maybeLandWord s).blPol = s.blPol := rfl
@[simp] theorem maybeLandWord_devAddr (s : State) : (maybeLandWord s).devAddr = s.devAddr := rfl
@[simp] theorem maybeLandWord_op (s : State) : (maybeLandWord s).op = s.op := rfl
@[simp] theorem maybeLandWord_a0 (s : State) : (maybeLandWord s).a0 = s.a0 := rfl
@[simp] theorem maybeLandWord_a1 (s : State) : (maybeLandWord s).a1 = s.a1 := rfl
@[simp] theorem maybeLandWord_a2 (s : State) : (maybeLandWord s).a2 = s.a2 := rfl
@[simp] theorem maybeLandWord_val (s : State) : (maybeLandWord s).val = s.val := rfl
@[simp] theorem maybeLandWord_rs (s : State) : (maybeLandWord s).rs = s.rs := rfl
@[simp] theorem maybeLandWord_rw (s : State) : (maybeLandWord s).rw = s.rw := rfl
@[simp] theorem maybeLandWord_len (s : State) : (maybeLandWord s).len = s.len := rfl
@[simp] theorem maybeLandWord_word (s : State) : (maybeLandWord s).word = s.word := rfl
@[simp] theorem maybeLandWord_rdHi (s : State) : (maybeLandWord s).rdHi = s.rdHi := rfl
@[simp] theorem maybeLandWord_rdLo (s : State) : (maybeLandWord s).rdLo = s.rdLo := rfl
@[simp] theorem maybeLandWord_status (s : State) : (maybeLandWord s).status = s.status := rfl
@[simp] theorem maybeLandWord_rdata (s : State) : (maybeLandWord s).rdata = s.rdata := rfl
@[simp] theorem maybeLandWord_cols (s : State) : (maybeLandWord s).cols = s.cols := rfl
@[simp] theorem maybeLandWord_rows (s : State) : (maybeLandWord s).rows = s.rows := rfl
@[simp] theorem maybeLandWord_font (s : State) : (maybeLandWord s).font = s.font := rfl
@[simp] theorem maybeLandWord_dispOn (s : State) : (maybeLandWord s).dispOn = s.dispOn := rfl
@[simp] theorem maybeLandWord_curOn (s : State) : (maybeLandWord s).curOn = s.curOn := rfl
@[simp] theorem maybeLandWord_blinkOn (s : State) : (maybeLandWord s).blinkOn = s.blinkOn := rfl
@[simp] theorem maybeLandWord_entryLtr (s : State) :
    (maybeLandWord s).entryLtr = s.entryLtr := rfl
@[simp] theorem maybeLandWord_autoscroll (s : State) :
    (maybeLandWord s).autoscroll = s.autoscroll := rfl
@[simp] theorem maybeLandWord_blOn (s : State) : (maybeLandWord s).blOn = s.blOn := rfl
@[simp] theorem maybeLandWord_initOk (s : State) : (maybeLandWord s).initOk = s.initOk := rfl
@[simp] theorem maybeLandWord_top (s : State) : (maybeLandWord s).top = s.top := rfl
@[simp] theorem maybeLandWord_seq (s : State) : (maybeLandWord s).seq = s.seq := rfl
@[simp] theorem maybeLandWord_npd (s : State) : (maybeLandWord s).npd = s.npd := rfl
@[simp] theorem maybeLandWord_rspValid (s : State) :
    (maybeLandWord s).rspValid = s.rspValid := rfl
@[simp] theorem maybeLandWord_req (s : State) : (maybeLandWord s).req = s.req := rfl
@[simp] theorem maybeLandWord_bus (s : State) :
    (maybeLandWord s).bus = if Config.freeLanded s.free then (landWord s).bus else s.bus := rfl
@[simp] theorem maybeLandWord_ctl (s : State) :
    (maybeLandWord s).ctl = if Config.freeLanded s.free then (landWord s).ctl else s.ctl := rfl
@[simp] theorem maybeLandWord_hostIn (s : State) : (maybeLandWord s).hostIn = s.hostIn := rfl
@[simp] theorem maybeLandWord_tpIn (s : State) : (maybeLandWord s).tpIn = s.tpIn := rfl
@[simp] theorem maybeLandWord_dlIn (s : State) : (maybeLandWord s).dlIn = s.dlIn := rfl
@[simp] theorem maybeLandWord_trace (s : State) : (maybeLandWord s).trace = s.trace := rfl
@[simp] theorem maybeLandWord_layerOut (s : State) :
    (maybeLandWord s).layerOut = s.layerOut := rfl
@[simp] theorem maybeLandWord_free (s : State) : (maybeLandWord s).free = s.free + 1 := rfl
@[simp] theorem encWord_maybeLandWord (s : State) (rs' rw' e : Bool) (n' : Nibble) :
    encWord (maybeLandWord s) rs' rw' e n' = encWord s rs' rw' e n' := rfl

/-! ### requestDone -/

@[simp] theorem requestDone_prm (s : State) : (requestDone s).prm = s.prm := takeAnswer_prm s
@[simp] theorem requestDone_pm (s : State) : (requestDone s).pm = s.pm := takeAnswer_pm s
@[simp] theorem requestDone_mapValid (s : State) :
    (requestDone s).mapValid = s.mapValid := takeAnswer_mapValid s
@[simp] theorem requestDone_blPol (s : State) :
    (requestDone s).blPol = s.blPol := takeAnswer_blPol s
@[simp] theorem requestDone_devAddr (s : State) :
    (requestDone s).devAddr = s.devAddr := takeAnswer_devAddr s
@[simp] theorem requestDone_op (s : State) : (requestDone s).op = s.op := takeAnswer_op s
@[simp] theorem requestDone_a0 (s : State) : (requestDone s).a0 = s.a0 := takeAnswer_a0 s
@[simp] theorem requestDone_a1 (s : State) : (requestDone s).a1 = s.a1 := takeAnswer_a1 s
@[simp] theorem requestDone_a2 (s : State) : (requestDone s).a2 = s.a2 := takeAnswer_a2 s
@[simp] theorem requestDone_val (s : State) : (requestDone s).val = s.val := takeAnswer_val s
@[simp] theorem requestDone_rs (s : State) : (requestDone s).rs = s.rs := takeAnswer_rs s
@[simp] theorem requestDone_rw (s : State) : (requestDone s).rw = s.rw := takeAnswer_rw s
@[simp] theorem requestDone_len (s : State) : (requestDone s).len = s.len := takeAnswer_len s
@[simp] theorem requestDone_word (s : State) : (requestDone s).word = s.word := takeAnswer_word s
@[simp] theorem requestDone_rdHi (s : State) : (requestDone s).rdHi = s.rdHi := takeAnswer_rdHi s
@[simp] theorem requestDone_rdLo (s : State) : (requestDone s).rdLo = s.rdLo := takeAnswer_rdLo s
@[simp] theorem requestDone_status (s : State) :
    (requestDone s).status = s.status := takeAnswer_status s
@[simp] theorem requestDone_rdata (s : State) :
    (requestDone s).rdata = s.rdata := takeAnswer_rdata s
@[simp] theorem requestDone_cols (s : State) : (requestDone s).cols = s.cols := takeAnswer_cols s
@[simp] theorem requestDone_rows (s : State) : (requestDone s).rows = s.rows := takeAnswer_rows s
@[simp] theorem requestDone_font (s : State) : (requestDone s).font = s.font := takeAnswer_font s
@[simp] theorem requestDone_dispOn (s : State) :
    (requestDone s).dispOn = s.dispOn := takeAnswer_dispOn s
@[simp] theorem requestDone_curOn (s : State) :
    (requestDone s).curOn = s.curOn := takeAnswer_curOn s
@[simp] theorem requestDone_blinkOn (s : State) :
    (requestDone s).blinkOn = s.blinkOn := takeAnswer_blinkOn s
@[simp] theorem requestDone_entryLtr (s : State) :
    (requestDone s).entryLtr = s.entryLtr := takeAnswer_entryLtr s
@[simp] theorem requestDone_autoscroll (s : State) :
    (requestDone s).autoscroll = s.autoscroll := takeAnswer_autoscroll s
@[simp] theorem requestDone_blOn (s : State) : (requestDone s).blOn = s.blOn := takeAnswer_blOn s
@[simp] theorem requestDone_initOk (s : State) :
    (requestDone s).initOk = s.initOk := takeAnswer_initOk s
@[simp] theorem requestDone_top (s : State) : (requestDone s).top = s.top := takeAnswer_top s
@[simp] theorem requestDone_seq (s : State) : (requestDone s).seq = s.seq := takeAnswer_seq s
@[simp] theorem requestDone_npd (s : State) : (requestDone s).npd = s.npd := takeAnswer_npd s
@[simp] theorem requestDone_rspValid (s : State) :
    (requestDone s).rspValid = s.rspValid := takeAnswer_rspValid s
@[simp] theorem requestDone_req (s : State) : (requestDone s).req = .none := rfl
@[simp] theorem requestDone_bus (s : State) : (requestDone s).bus = s.bus := takeAnswer_bus s
@[simp] theorem requestDone_ctl (s : State) : (requestDone s).ctl = s.ctl := takeAnswer_ctl s
@[simp] theorem requestDone_hostIn (s : State) :
    (requestDone s).hostIn = s.hostIn := takeAnswer_hostIn s
@[simp] theorem requestDone_tpIn (s : State) :
    (requestDone s).tpIn = s.tpIn.tail := takeAnswer_tpIn s
@[simp] theorem requestDone_dlIn (s : State) : (requestDone s).dlIn = s.dlIn := takeAnswer_dlIn s
@[simp] theorem requestDone_trace (s : State) :
    (requestDone s).trace = s.trace := takeAnswer_trace s
@[simp] theorem requestDone_layerOut (s : State) :
    (requestDone s).layerOut = s.layerOut := takeAnswer_layerOut s
@[simp] theorem requestDone_free (s : State) :
    (requestDone s).free = s.free + (1 - s.tpIn.length) := takeAnswer_free s

/-! ### latchRead -/

@[simp] theorem latchRead_prm (b : Byte) (s : State) :
    (latchRead b s).prm = s.prm := by
  unfold latchRead; split <;> rfl
@[simp] theorem latchRead_pm (b : Byte) (s : State) :
    (latchRead b s).pm = s.pm := by
  unfold latchRead; split <;> rfl
@[simp] theorem latchRead_mapValid (b : Byte) (s : State) :
    (latchRead b s).mapValid = s.mapValid := by
  unfold latchRead; split <;> rfl
@[simp] theorem latchRead_blPol (b : Byte) (s : State) :
    (latchRead b s).blPol = s.blPol := by
  unfold latchRead; split <;> rfl
@[simp] theorem latchRead_devAddr (b : Byte) (s : State) :
    (latchRead b s).devAddr = s.devAddr := by
  unfold latchRead; split <;> rfl
@[simp] theorem latchRead_op (b : Byte) (s : State) :
    (latchRead b s).op = s.op := by
  unfold latchRead; split <;> rfl
@[simp] theorem latchRead_a0 (b : Byte) (s : State) :
    (latchRead b s).a0 = s.a0 := by
  unfold latchRead; split <;> rfl
@[simp] theorem latchRead_a1 (b : Byte) (s : State) :
    (latchRead b s).a1 = s.a1 := by
  unfold latchRead; split <;> rfl
@[simp] theorem latchRead_a2 (b : Byte) (s : State) :
    (latchRead b s).a2 = s.a2 := by
  unfold latchRead; split <;> rfl
@[simp] theorem latchRead_val (b : Byte) (s : State) :
    (latchRead b s).val = s.val := by
  unfold latchRead; split <;> rfl
@[simp] theorem latchRead_rs (b : Byte) (s : State) :
    (latchRead b s).rs = s.rs := by
  unfold latchRead; split <;> rfl
@[simp] theorem latchRead_rw (b : Byte) (s : State) :
    (latchRead b s).rw = s.rw := by
  unfold latchRead; split <;> rfl
@[simp] theorem latchRead_len (b : Byte) (s : State) :
    (latchRead b s).len = s.len := by
  unfold latchRead; split <;> rfl
@[simp] theorem latchRead_word (b : Byte) (s : State) :
    (latchRead b s).word = s.word := by
  unfold latchRead; split <;> rfl
@[simp] theorem latchRead_rdHi (b : Byte) (s : State) :
    (latchRead b s).rdHi = if s.npd = .sampleLow then s.rdHi else b := by
  unfold latchRead; split <;> simp_all
@[simp] theorem latchRead_rdLo (b : Byte) (s : State) :
    (latchRead b s).rdLo = if s.npd = .sampleLow then b else s.rdLo := by
  unfold latchRead; split <;> simp_all
@[simp] theorem latchRead_status (b : Byte) (s : State) :
    (latchRead b s).status = s.status := by
  unfold latchRead; split <;> rfl
@[simp] theorem latchRead_rdata (b : Byte) (s : State) :
    (latchRead b s).rdata = s.rdata := by
  unfold latchRead; split <;> rfl
@[simp] theorem latchRead_cols (b : Byte) (s : State) :
    (latchRead b s).cols = s.cols := by
  unfold latchRead; split <;> rfl
@[simp] theorem latchRead_rows (b : Byte) (s : State) :
    (latchRead b s).rows = s.rows := by
  unfold latchRead; split <;> rfl
@[simp] theorem latchRead_font (b : Byte) (s : State) :
    (latchRead b s).font = s.font := by
  unfold latchRead; split <;> rfl
@[simp] theorem latchRead_dispOn (b : Byte) (s : State) :
    (latchRead b s).dispOn = s.dispOn := by
  unfold latchRead; split <;> rfl
@[simp] theorem latchRead_curOn (b : Byte) (s : State) :
    (latchRead b s).curOn = s.curOn := by
  unfold latchRead; split <;> rfl
@[simp] theorem latchRead_blinkOn (b : Byte) (s : State) :
    (latchRead b s).blinkOn = s.blinkOn := by
  unfold latchRead; split <;> rfl
@[simp] theorem latchRead_entryLtr (b : Byte) (s : State) :
    (latchRead b s).entryLtr = s.entryLtr := by
  unfold latchRead; split <;> rfl
@[simp] theorem latchRead_autoscroll (b : Byte) (s : State) :
    (latchRead b s).autoscroll = s.autoscroll := by
  unfold latchRead; split <;> rfl
@[simp] theorem latchRead_blOn (b : Byte) (s : State) :
    (latchRead b s).blOn = s.blOn := by
  unfold latchRead; split <;> rfl
@[simp] theorem latchRead_initOk (b : Byte) (s : State) :
    (latchRead b s).initOk = s.initOk := by
  unfold latchRead; split <;> rfl
@[simp] theorem latchRead_top (b : Byte) (s : State) :
    (latchRead b s).top = s.top := by
  unfold latchRead; split <;> rfl
@[simp] theorem latchRead_seq (b : Byte) (s : State) :
    (latchRead b s).seq = s.seq := by
  unfold latchRead; split <;> rfl
@[simp] theorem latchRead_npd (b : Byte) (s : State) :
    (latchRead b s).npd = s.npd := by
  unfold latchRead; split <;> rfl
@[simp] theorem latchRead_rspValid (b : Byte) (s : State) :
    (latchRead b s).rspValid = s.rspValid := by
  unfold latchRead; split <;> rfl
@[simp] theorem latchRead_req (b : Byte) (s : State) :
    (latchRead b s).req = s.req := by
  unfold latchRead; split <;> rfl
@[simp] theorem latchRead_bus (b : Byte) (s : State) :
    (latchRead b s).bus = s.bus := by
  unfold latchRead; split <;> rfl
@[simp] theorem latchRead_ctl (b : Byte) (s : State) :
    (latchRead b s).ctl = s.ctl := by
  unfold latchRead; split <;> rfl
@[simp] theorem latchRead_hostIn (b : Byte) (s : State) :
    (latchRead b s).hostIn = s.hostIn := by
  unfold latchRead; split <;> rfl
@[simp] theorem latchRead_tpIn (b : Byte) (s : State) :
    (latchRead b s).tpIn = s.tpIn := by
  unfold latchRead; split <;> rfl
@[simp] theorem latchRead_dlIn (b : Byte) (s : State) :
    (latchRead b s).dlIn = s.dlIn := by
  unfold latchRead; split <;> rfl
@[simp] theorem latchRead_trace (b : Byte) (s : State) :
    (latchRead b s).trace = s.trace := by
  unfold latchRead; split <;> rfl
@[simp] theorem latchRead_layerOut (b : Byte) (s : State) :
    (latchRead b s).layerOut = s.layerOut := by
  unfold latchRead; split <;> rfl
@[simp] theorem latchRead_free (b : Byte) (s : State) :
    (latchRead b s).free = s.free := by
  unfold latchRead; split <;> rfl

/-! ### seqEffect -/

@[simp] theorem seqEffect_prm (s : State) :
    (seqEffect s).prm = s.prm := by
  unfold seqEffect; repeat' split
  all_goals rfl
@[simp] theorem seqEffect_pm (s : State) :
    (seqEffect s).pm = s.pm := by
  unfold seqEffect; repeat' split
  all_goals rfl
@[simp] theorem seqEffect_mapValid (s : State) :
    (seqEffect s).mapValid = s.mapValid := by
  unfold seqEffect; repeat' split
  all_goals rfl
@[simp] theorem seqEffect_blPol (s : State) :
    (seqEffect s).blPol = s.blPol := by
  unfold seqEffect; repeat' split
  all_goals rfl
@[simp] theorem seqEffect_devAddr (s : State) :
    (seqEffect s).devAddr = s.devAddr := by
  unfold seqEffect; repeat' split
  all_goals rfl
@[simp] theorem seqEffect_op (s : State) :
    (seqEffect s).op = s.op := by
  unfold seqEffect; repeat' split
  all_goals rfl
@[simp] theorem seqEffect_a0 (s : State) :
    (seqEffect s).a0 = s.a0 := by
  unfold seqEffect; repeat' split
  all_goals rfl
@[simp] theorem seqEffect_a1 (s : State) :
    (seqEffect s).a1 = s.a1 := by
  unfold seqEffect; repeat' split
  all_goals rfl
@[simp] theorem seqEffect_a2 (s : State) :
    (seqEffect s).a2 = s.a2 := by
  unfold seqEffect; repeat' split
  all_goals rfl
@[simp] theorem seqEffect_val (s : State) :
    (seqEffect s).val = s.val := by
  unfold seqEffect; repeat' split
  all_goals rfl
@[simp] theorem seqEffect_rs (s : State) :
    (seqEffect s).rs = s.rs := by
  unfold seqEffect; repeat' split
  all_goals rfl
@[simp] theorem seqEffect_rw (s : State) :
    (seqEffect s).rw = s.rw := by
  unfold seqEffect; repeat' split
  all_goals rfl
@[simp] theorem seqEffect_len (s : State) :
    (seqEffect s).len = s.len := by
  unfold seqEffect; repeat' split
  all_goals rfl
@[simp] theorem seqEffect_word (s : State) :
    (seqEffect s).word = s.word := by
  unfold seqEffect; repeat' split
  all_goals rfl
@[simp] theorem seqEffect_rdHi (s : State) :
    (seqEffect s).rdHi = s.rdHi := by
  unfold seqEffect; repeat' split
  all_goals rfl
@[simp] theorem seqEffect_rdLo (s : State) :
    (seqEffect s).rdLo = s.rdLo := by
  unfold seqEffect; repeat' split
  all_goals rfl
@[simp] theorem seqEffect_status (s : State) :
    (seqEffect s).status = s.status := by
  unfold seqEffect; repeat' split
  all_goals rfl
@[simp] theorem seqEffect_rdata (s : State) :
    (seqEffect s).rdata = s.rdata := by
  unfold seqEffect; repeat' split
  all_goals rfl
@[simp] theorem seqEffect_cols (s : State) :
    (seqEffect s).cols = s.cols := by
  unfold seqEffect; repeat' split
  all_goals rfl
@[simp] theorem seqEffect_rows (s : State) :
    (seqEffect s).rows = s.rows := by
  unfold seqEffect; repeat' split
  all_goals rfl
@[simp] theorem seqEffect_font (s : State) :
    (seqEffect s).font = s.font := by
  unfold seqEffect; repeat' split
  all_goals rfl
@[simp] theorem seqEffect_dispOn (s : State) :
    (seqEffect s).dispOn = s.dispOn := by
  unfold seqEffect; repeat' split
  all_goals rfl
@[simp] theorem seqEffect_curOn (s : State) :
    (seqEffect s).curOn = s.curOn := by
  unfold seqEffect; repeat' split
  all_goals rfl
@[simp] theorem seqEffect_blinkOn (s : State) :
    (seqEffect s).blinkOn = s.blinkOn := by
  unfold seqEffect; repeat' split
  all_goals rfl
@[simp] theorem seqEffect_entryLtr (s : State) :
    (seqEffect s).entryLtr = s.entryLtr := by
  unfold seqEffect; repeat' split
  all_goals rfl
@[simp] theorem seqEffect_autoscroll (s : State) :
    (seqEffect s).autoscroll = s.autoscroll := by
  unfold seqEffect; repeat' split
  all_goals rfl
@[simp] theorem seqEffect_blOn (s : State) :
    (seqEffect s).blOn = s.blOn := by
  unfold seqEffect; repeat' split
  all_goals rfl
@[simp] theorem seqEffect_initOk (s : State) :
    (seqEffect s).initOk = s.initOk := by
  unfold seqEffect; repeat' split
  all_goals rfl
@[simp] theorem seqEffect_top (s : State) :
    (seqEffect s).top = s.top := by
  unfold seqEffect; repeat' split
  all_goals rfl
@[simp] theorem seqEffect_seq (s : State) :
    (seqEffect s).seq = s.seq := by
  unfold seqEffect; repeat' split
  all_goals rfl
@[simp] theorem seqEffect_npd (s : State) :
    (seqEffect s).npd = s.npd := by
  unfold seqEffect; repeat' split
  all_goals rfl
@[simp] theorem seqEffect_rspValid (s : State) :
    (seqEffect s).rspValid = s.rspValid := by
  unfold seqEffect; repeat' split
  all_goals rfl
@[simp] theorem seqEffect_req (s : State) :
    (seqEffect s).req = s.req := by
  unfold seqEffect; repeat' split
  all_goals rfl
@[simp] theorem seqEffect_bus (s : State) :
    (seqEffect s).bus = s.bus := by
  unfold seqEffect; repeat' split
  all_goals rfl
@[simp] theorem seqEffect_ctl (s : State) :
    (seqEffect s).ctl = if s.seq = 3#4 then .eightBit else if s.seq = 4#4 then .expectsHigh else s.ctl := by
  unfold seqEffect; split <;> [skip; split] <;> simp_all
@[simp] theorem seqEffect_hostIn (s : State) :
    (seqEffect s).hostIn = s.hostIn := by
  unfold seqEffect; repeat' split
  all_goals rfl
@[simp] theorem seqEffect_tpIn (s : State) :
    (seqEffect s).tpIn = s.tpIn := by
  unfold seqEffect; repeat' split
  all_goals rfl
@[simp] theorem seqEffect_dlIn (s : State) :
    (seqEffect s).dlIn = s.dlIn := by
  unfold seqEffect; repeat' split
  all_goals rfl
@[simp] theorem seqEffect_trace (s : State) :
    (seqEffect s).trace = s.trace := by
  unfold seqEffect; repeat' split
  all_goals rfl
@[simp] theorem seqEffect_layerOut (s : State) :
    (seqEffect s).layerOut = s.layerOut := by
  unfold seqEffect; repeat' split
  all_goals rfl
@[simp] theorem seqEffect_free (s : State) :
    (seqEffect s).free = s.free := by
  unfold seqEffect; repeat' split
  all_goals rfl

/-! ### displayPowerLoss -/

@[simp] theorem displayPowerLoss_prm (s : State) : (displayPowerLoss s).prm = s.prm := rfl
@[simp] theorem displayPowerLoss_pm (s : State) : (displayPowerLoss s).pm = s.pm := rfl
@[simp] theorem displayPowerLoss_mapValid (s : State) : (displayPowerLoss s).mapValid = s.mapValid := rfl
@[simp] theorem displayPowerLoss_blPol (s : State) : (displayPowerLoss s).blPol = s.blPol := rfl
@[simp] theorem displayPowerLoss_devAddr (s : State) : (displayPowerLoss s).devAddr = s.devAddr := rfl
@[simp] theorem displayPowerLoss_op (s : State) : (displayPowerLoss s).op = s.op := rfl
@[simp] theorem displayPowerLoss_a0 (s : State) : (displayPowerLoss s).a0 = s.a0 := rfl
@[simp] theorem displayPowerLoss_a1 (s : State) : (displayPowerLoss s).a1 = s.a1 := rfl
@[simp] theorem displayPowerLoss_a2 (s : State) : (displayPowerLoss s).a2 = s.a2 := rfl
@[simp] theorem displayPowerLoss_val (s : State) : (displayPowerLoss s).val = s.val := rfl
@[simp] theorem displayPowerLoss_rs (s : State) : (displayPowerLoss s).rs = s.rs := rfl
@[simp] theorem displayPowerLoss_rw (s : State) : (displayPowerLoss s).rw = s.rw := rfl
@[simp] theorem displayPowerLoss_len (s : State) : (displayPowerLoss s).len = s.len := rfl
@[simp] theorem displayPowerLoss_word (s : State) : (displayPowerLoss s).word = s.word := rfl
@[simp] theorem displayPowerLoss_rdHi (s : State) : (displayPowerLoss s).rdHi = s.rdHi := rfl
@[simp] theorem displayPowerLoss_rdLo (s : State) : (displayPowerLoss s).rdLo = s.rdLo := rfl
@[simp] theorem displayPowerLoss_status (s : State) : (displayPowerLoss s).status = s.status := rfl
@[simp] theorem displayPowerLoss_rdata (s : State) : (displayPowerLoss s).rdata = s.rdata := rfl
@[simp] theorem displayPowerLoss_cols (s : State) : (displayPowerLoss s).cols = s.cols := rfl
@[simp] theorem displayPowerLoss_rows (s : State) : (displayPowerLoss s).rows = s.rows := rfl
@[simp] theorem displayPowerLoss_font (s : State) : (displayPowerLoss s).font = s.font := rfl
@[simp] theorem displayPowerLoss_dispOn (s : State) : (displayPowerLoss s).dispOn = s.dispOn := rfl
@[simp] theorem displayPowerLoss_curOn (s : State) : (displayPowerLoss s).curOn = s.curOn := rfl
@[simp] theorem displayPowerLoss_blinkOn (s : State) : (displayPowerLoss s).blinkOn = s.blinkOn := rfl
@[simp] theorem displayPowerLoss_entryLtr (s : State) : (displayPowerLoss s).entryLtr = s.entryLtr := rfl
@[simp] theorem displayPowerLoss_autoscroll (s : State) : (displayPowerLoss s).autoscroll = s.autoscroll := rfl
@[simp] theorem displayPowerLoss_blOn (s : State) : (displayPowerLoss s).blOn = s.blOn := rfl
@[simp] theorem displayPowerLoss_initOk (s : State) : (displayPowerLoss s).initOk = s.initOk := rfl
@[simp] theorem displayPowerLoss_top (s : State) : (displayPowerLoss s).top = s.top := rfl
@[simp] theorem displayPowerLoss_seq (s : State) : (displayPowerLoss s).seq = s.seq := rfl
@[simp] theorem displayPowerLoss_npd (s : State) : (displayPowerLoss s).npd = s.npd := rfl
@[simp] theorem displayPowerLoss_rspValid (s : State) : (displayPowerLoss s).rspValid = false := rfl
@[simp] theorem displayPowerLoss_req (s : State) : (displayPowerLoss s).req = s.req := rfl
@[simp] theorem displayPowerLoss_bus (s : State) : (displayPowerLoss s).bus = s.bus := rfl
@[simp] theorem displayPowerLoss_ctl (s : State) : (displayPowerLoss s).ctl = .unknown := rfl
@[simp] theorem displayPowerLoss_hostIn (s : State) : (displayPowerLoss s).hostIn = s.hostIn := rfl
@[simp] theorem displayPowerLoss_tpIn (s : State) : (displayPowerLoss s).tpIn = s.tpIn := rfl
@[simp] theorem displayPowerLoss_dlIn (s : State) : (displayPowerLoss s).dlIn = s.dlIn := rfl
@[simp] theorem displayPowerLoss_trace (s : State) : (displayPowerLoss s).trace = s.trace := rfl
@[simp] theorem displayPowerLoss_layerOut (s : State) : (displayPowerLoss s).layerOut = s.layerOut := rfl
@[simp] theorem displayPowerLoss_free (s : State) : (displayPowerLoss s).free = s.free := rfl

/-! ### takeGlyph -/

@[simp] theorem takeGlyph_prm (pattern : List Byte) (s : State) :
    (takeGlyph pattern s).prm = s.prm := rfl
@[simp] theorem takeGlyph_pm (pattern : List Byte) (s : State) :
    (takeGlyph pattern s).pm = s.pm := rfl
@[simp] theorem takeGlyph_mapValid (pattern : List Byte) (s : State) :
    (takeGlyph pattern s).mapValid = s.mapValid := rfl
@[simp] theorem takeGlyph_blPol (pattern : List Byte) (s : State) :
    (takeGlyph pattern s).blPol = s.blPol := rfl
@[simp] theorem takeGlyph_devAddr (pattern : List Byte) (s : State) :
    (takeGlyph pattern s).devAddr = s.devAddr := rfl
@[simp] theorem takeGlyph_op (pattern : List Byte) (s : State) :
    (takeGlyph pattern s).op = s.op := rfl
@[simp] theorem takeGlyph_a0 (pattern : List Byte) (s : State) :
    (takeGlyph pattern s).a0 = s.a0 := rfl
@[simp] theorem takeGlyph_a1 (pattern : List Byte) (s : State) :
    (takeGlyph pattern s).a1 = s.a1 := rfl
@[simp] theorem takeGlyph_a2 (pattern : List Byte) (s : State) :
    (takeGlyph pattern s).a2 = s.a2 := rfl
@[simp] theorem takeGlyph_val (pattern : List Byte) (s : State) :
    (takeGlyph pattern s).val = s.val := rfl
@[simp] theorem takeGlyph_rs (pattern : List Byte) (s : State) :
    (takeGlyph pattern s).rs = s.rs := rfl
@[simp] theorem takeGlyph_rw (pattern : List Byte) (s : State) :
    (takeGlyph pattern s).rw = s.rw := rfl
@[simp] theorem takeGlyph_len (pattern : List Byte) (s : State) :
    (takeGlyph pattern s).len = s.len := rfl
@[simp] theorem takeGlyph_word (pattern : List Byte) (s : State) :
    (takeGlyph pattern s).word = s.word := rfl
@[simp] theorem takeGlyph_rdHi (pattern : List Byte) (s : State) :
    (takeGlyph pattern s).rdHi = s.rdHi := rfl
@[simp] theorem takeGlyph_rdLo (pattern : List Byte) (s : State) :
    (takeGlyph pattern s).rdLo = s.rdLo := rfl
@[simp] theorem takeGlyph_status (pattern : List Byte) (s : State) :
    (takeGlyph pattern s).status = s.status := rfl
@[simp] theorem takeGlyph_rdata (pattern : List Byte) (s : State) :
    (takeGlyph pattern s).rdata = s.rdata := rfl
@[simp] theorem takeGlyph_cols (pattern : List Byte) (s : State) :
    (takeGlyph pattern s).cols = s.cols := rfl
@[simp] theorem takeGlyph_rows (pattern : List Byte) (s : State) :
    (takeGlyph pattern s).rows = s.rows := rfl
@[simp] theorem takeGlyph_font (pattern : List Byte) (s : State) :
    (takeGlyph pattern s).font = s.font := rfl
@[simp] theorem takeGlyph_dispOn (pattern : List Byte) (s : State) :
    (takeGlyph pattern s).dispOn = s.dispOn := rfl
@[simp] theorem takeGlyph_curOn (pattern : List Byte) (s : State) :
    (takeGlyph pattern s).curOn = s.curOn := rfl
@[simp] theorem takeGlyph_blinkOn (pattern : List Byte) (s : State) :
    (takeGlyph pattern s).blinkOn = s.blinkOn := rfl
@[simp] theorem takeGlyph_entryLtr (pattern : List Byte) (s : State) :
    (takeGlyph pattern s).entryLtr = s.entryLtr := rfl
@[simp] theorem takeGlyph_autoscroll (pattern : List Byte) (s : State) :
    (takeGlyph pattern s).autoscroll = s.autoscroll := rfl
@[simp] theorem takeGlyph_blOn (pattern : List Byte) (s : State) :
    (takeGlyph pattern s).blOn = s.blOn := rfl
@[simp] theorem takeGlyph_initOk (pattern : List Byte) (s : State) :
    (takeGlyph pattern s).initOk = s.initOk := rfl
@[simp] theorem takeGlyph_top (pattern : List Byte) (s : State) :
    (takeGlyph pattern s).top = s.top := rfl
@[simp] theorem takeGlyph_seq (pattern : List Byte) (s : State) :
    (takeGlyph pattern s).seq = s.seq := rfl
@[simp] theorem takeGlyph_npd (pattern : List Byte) (s : State) :
    (takeGlyph pattern s).npd = s.npd := rfl
@[simp] theorem takeGlyph_rspValid (pattern : List Byte) (s : State) :
    (takeGlyph pattern s).rspValid = s.rspValid := rfl
@[simp] theorem takeGlyph_req (pattern : List Byte) (s : State) :
    (takeGlyph pattern s).req = s.req := rfl
@[simp] theorem takeGlyph_bus (pattern : List Byte) (s : State) :
    (takeGlyph pattern s).bus = s.bus := rfl
@[simp] theorem takeGlyph_ctl (pattern : List Byte) (s : State) :
    (takeGlyph pattern s).ctl = s.ctl := rfl
@[simp] theorem takeGlyph_hostIn (pattern : List Byte) (s : State) :
    (takeGlyph pattern s).hostIn = s.hostIn := rfl
@[simp] theorem takeGlyph_tpIn (pattern : List Byte) (s : State) :
    (takeGlyph pattern s).tpIn = s.tpIn := rfl
@[simp] theorem takeGlyph_dlIn (pattern : List Byte) (s : State) :
    (takeGlyph pattern s).dlIn = s.dlIn := rfl
@[simp] theorem takeGlyph_trace (pattern : List Byte) (s : State) :
    (takeGlyph pattern s).trace = s.trace := rfl
@[simp] theorem takeGlyph_layerOut (pattern : List Byte) (s : State) :
    (takeGlyph pattern s).layerOut = s.layerOut := rfl
@[simp] theorem takeGlyph_free (pattern : List Byte) (s : State) :
    (takeGlyph pattern s).free = if pattern.length = glyphBytes s.font then s.free else s.free + 1 := rfl

end Sys2Proof.Machine
end

