-- ==== Sys2Proof/Laws/Words.lean ====
section
/-! SUPPORT. The laws of relocation and of the encoded words, level by level. -/

namespace Sys2Proof.Machine

theorem portBit_getLsbD : ∀ (p : Port) (b : Bool) (k : Port),
    (portBit p b).getLsbD k.val = (decide (p = k) && b) := by decide

theorem PinMap.IsPerm.slot_eq {pm : PinMap} (h : PinMap.IsPerm pm) (i j : Fin 8) :
    (pm[i] = pm[j]) = (i = j) := propext ⟨h i j, fun e => by rw [e]⟩

theorem phys_getLsbD (pm : PinMap) (l : Byte) (k : Port) :
    (phys pm l).getLsbD k.val =
      ((decide (pm[(0 : Fin 8)] = k) && l.getLsbD 0) || (decide (pm[(1 : Fin 8)] = k) && l.getLsbD 1) ||
       (decide (pm[(2 : Fin 8)] = k) && l.getLsbD 2) || (decide (pm[(3 : Fin 8)] = k) && l.getLsbD 3) ||
       (decide (pm[(4 : Fin 8)] = k) && l.getLsbD 4) || (decide (pm[(5 : Fin 8)] = k) && l.getLsbD 5) ||
       (decide (pm[(6 : Fin 8)] = k) && l.getLsbD 6) || (decide (pm[(7 : Fin 8)] = k) && l.getLsbD 7)) := by
  simp only [phys, BitVec.getLsbD_or, portBit_getLsbD]; rfl

/-- A bit of the logical word stands at the port of its slot. -/
theorem atSlot_phys {pm : PinMap} (h : PinMap.IsPerm pm) (l : Byte) (i : Fin 8) :
    atSlot pm (phys pm l) i = l.getLsbD i.val := by
  unfold atSlot
  rw [phys_getLsbD]
  simp only [h.slot_eq]
  fin_cases i <;> simp

/-- Eight levels in a word, read back one by one. -/
theorem levels_getLsbD : ∀ b7 b6 b5 b4 b3 b2 b1 b0 : Bool, ∀ i : Fin 8,
    (BitVec.ofBool b7 ++ BitVec.ofBool b6 ++ BitVec.ofBool b5 ++ BitVec.ofBool b4 ++
      BitVec.ofBool b3 ++ BitVec.ofBool b2 ++ BitVec.ofBool b1 ++ BitVec.ofBool b0).getLsbD i.val =
      #v[b0, b1, b2, b3, b4, b5, b6, b7][i] := by decide

/-- Bit `i` of `Log(P)` is the level at slot `i`. -/
theorem log_getLsbD (pm : PinMap) (p : Byte) (i : Fin 8) :
    (log pm p).getLsbD i.val = atSlot pm p i := by
  rw [log, levels_getLsbD]
  fin_cases i <;> rfl

theorem lword_getLsbD (rs rw e : Bool) (n : Nibble) :
    (lword rs rw e n).getLsbD 7 = rs ∧ (lword rs rw e n).getLsbD 6 = rw ∧
    (lword rs rw e n).getLsbD 5 = e ∧ (lword rs rw e n).getLsbD 4 = n.getLsbD 3 ∧
    (lword rs rw e n).getLsbD 3 = n.getLsbD 2 ∧ (lword rs rw e n).getLsbD 2 = n.getLsbD 1 ∧
    (lword rs rw e n).getLsbD 1 = n.getLsbD 0 ∧ (lword rs rw e n).getLsbD 0 = false := by
  revert n rs rw e; decide

/-- Every slot's level is set by one port, so levels at the slots tell a word (R136 a). -/
theorem Port.exists_slot {pm : PinMap} (h : PinMap.IsPerm pm) (p : Port) : ∃ i : Fin 8, pm[i] = p :=
  Finite.injective_iff_surjective.1 (fun i j e => h i j e : Function.Injective fun i : Fin 8 => pm[i]) p

theorem ext_atSlot {pm : PinMap} (h : PinMap.IsPerm pm) {a b : Byte}
    (e : ∀ i, atSlot pm a i = atSlot pm b i) : a = b := by
  apply BitVec.eq_of_getLsbD_eq
  intro k hk
  obtain ⟨i, hi⟩ := Port.exists_slot h ⟨k, hk⟩
  have := e i
  unfold atSlot at this
  rwa [hi] at this

theorem atSlot_blMask (s : State) (h : PinMap.IsPerm s.pm) (i : Fin 8) :
    atSlot s.pm (blMask s) i = (decide (i = slotBL) && backlightLevel s) := by
  unfold atSlot blMask
  rw [portBit_getLsbD]
  simp only [h.slot_eq, eq_comm]

/-- An encoded word, level by level: the logical word's, and the backlight's at its own slot. -/
theorem atSlot_encWord (s : State) (h : PinMap.IsPerm s.pm) (rs rw e : Bool) (n : Nibble) (i : Fin 8) :
    atSlot s.pm (encWord s rs rw e n) i =
      ((lword rs rw e n).getLsbD i.val || (decide (i = slotBL) && backlightLevel s)) := by
  have h1 := atSlot_blMask s h i
  have h2 := atSlot_phys h (lword rs rw e n) i
  unfold atSlot at *
  rw [encWord, BitVec.getLsbD_or, h1, h2]

@[simp] theorem atSlot_encWord_enable (s : State) (h : PinMap.IsPerm s.pm) (rs rw e : Bool) (n : Nibble) :
    atSlot s.pm (encWord s rs rw e n) slotE = e := by
  rw [atSlot_encWord s h]
  have := lword_getLsbD rs rw e n
  simp_all [slotE, slotBL]

/-- Clearing enable changes no other level. -/
theorem atSlot_clear_enable (s : State) (h : PinMap.IsPerm s.pm) (w : Byte) (i : Fin 8) :
    atSlot s.pm (w &&& ~~~(eMask s)) i = (atSlot s.pm w i && !decide (i = slotE)) := by
  unfold atSlot
  rw [BitVec.getLsbD_and, BitVec.getLsbD_not, eMask, portBit_getLsbD]
  simp only [h.slot_eq]
  simp [eq_comm]

/-- The second word of a phase is the encoding with enable low (R153). -/
theorem encWord_clear_enable (s : State) (h : PinMap.IsPerm s.pm) (rs rw : Bool) (n : Nibble) :
    encWord s rs rw true n &&& ~~~(eMask s) = encWord s rs rw false n := by
  apply ext_atSlot h
  intro i
  rw [atSlot_clear_enable s h, atSlot_encWord s h, atSlot_encWord s h]
  have := lword_getLsbD rs rw true n
  have := lword_getLsbD rs rw false n
  fin_cases i <;> simp_all [slotE, slotBL]

end Sys2Proof.Machine
end

