-- ==== Sys2Proof/Laws/Ops.lean ====
section
/-! SUPPORT. What each shared operation does, said once: the flow of control, the answers, the calls, the
waits, the rows of the driver. -/

namespace Sys2Proof.Machine

@[simp] theorem Flow.going_andThen (s : State) (k : State → Flow) :
    (Flow.going s).andThen k = k s := rfl
@[simp] theorem Flow.aborted_andThen (s : State) (k : State → Flow) :
    (Flow.aborted s).andThen k = .aborted s := rfl
@[simp] theorem Flow.waiting_andThen (s : State) (k : State → Flow) :
    (Flow.waiting s).andThen k = .waiting s := rfl
@[simp] theorem Flow.going_settle (f : State → State) (s : State) : (Flow.going s).settle f = s := rfl
@[simp] theorem Flow.aborted_settle (f : State → State) (s : State) : (Flow.aborted s).settle f = f s := rfl
@[simp] theorem Flow.waiting_settle (f : State → State) (s : State) : (Flow.waiting s).settle f = s := rfl

theorem Flow.andThen_assoc (f : Flow) (k l : State → Flow) :
    (f.andThen k).andThen l = f.andThen fun s => (k s).andThen l := by cases f <;> rfl

/-- Where an operation goes on, it went on in both parts. -/
theorem Flow.andThen_eq_going {f : Flow} {k : State → Flow} {t : State} :
    f.andThen k = .going t ↔ ∃ s, f = .going s ∧ k s = .going t := by cases f <;> simp [Flow.andThen]

/-! ### Answers -/

theorem takeAnswer_eq (s : State) :
    takeAnswer s = { s with tpIn := s.tpIn.tail, free := s.free + (1 - s.tpIn.length) } := by
  unfold takeAnswer
  split <;> rename_i h
  · apply State.ext <;> simp [h]
  · apply State.ext <;> simp [h]

theorem takeAnswers_eq (n : Nat) (s : State) :
    takeAnswers n s = { s with tpIn := s.tpIn.drop n, free := s.free + (n - s.tpIn.length) } := by
  induction n generalizing s with
  | zero => apply State.ext <;> simp [takeAnswers]
  | succ n ih =>
    rw [takeAnswers, ih, takeAnswer_eq]
    apply State.ext <;> simp
    · cases s.tpIn <;> simp
      omega

theorem transportAnswer_congr {s t : State} (h : s.tpIn = t.tpIn) (hf : s.free = t.free) :
    transportAnswer s = transportAnswer t := by unfold transportAnswer; rw [h, hf]

theorem answer_congr {s t : State} (k : Nat) (h : s.tpIn = t.tpIn) (hf : s.free = t.free) :
    answer k s = answer k t := by
  unfold answer
  apply transportAnswer_congr <;> rw [takeAnswers_eq, takeAnswers_eq] <;> simp [h, hf]

@[simp] theorem answer_zero (s : State) : answer 0 s = transportAnswer s := rfl
theorem answer_succ (k : Nat) (s : State) : answer (k + 1) s = answer k (takeAnswer s) := rfl


/-! ### The calls -/

theorem receiveWrite_ok {s : State} (h : (transportAnswer s).isOk = true) :
    receiveWrite s = .going (landWord (requestDone s)) := by
  unfold receiveWrite
  cases hb : transportAnswer s <;> simp_all [TpAnswer.isOk]

theorem receiveWrite_fail {s : State} (h : transportAnswer s = .fail) :
    receiveWrite s = .aborted (maybeLandWord (requestDone s)) := by
  unfold receiveWrite; rw [h]

theorem receiveWrite_never {s : State} (h : transportAnswer s = .never) :
    receiveWrite s = .waiting s := by unfold receiveWrite; rw [h]

theorem receiveRead_ok {s : State} {b : Byte} (h : transportAnswer s = .ok b) :
    receiveRead s = .going (latchRead b (requestDone s)) := by
  unfold receiveRead; rw [h]

theorem receiveRead_fail {s : State} (h : transportAnswer s = .fail) :
    receiveRead s = .aborted (requestDone s) := by unfold receiveRead; rw [h]

theorem receiveRead_never {s : State} (h : transportAnswer s = .never) :
    receiveRead s = .waiting s := by unfold receiveRead; rw [h]

theorem delay_ends {s : State} (n : Micros) (h : DelaysEnd s) :
    delay n s = .going { s with req := .none, trace := s.trace ++ [Event.delay n], dlIn := s.dlIn.tail } := by
  unfold delay receiveDelay
  cases hd : s.dlIn with
  | nil => simp only [issueDelay_dlIn, hd]; rw [endDelay, ← hd]; rfl
  | cons a r =>
    have : a = .done := h a (by simp [hd])
    subst this
    simp only [issueDelay_dlIn, hd]; rw [endDelay, ← hd]; rfl

/-- `TW(WORD)` answered ok, and the wait after it. -/
def wrote (n : Micros) (s : State) : State :=
  { s with
    req := .none
    bus := Memory.write s.bus s.devAddr.toNat s.word
    ctl := if enableFalls s.pm (Memory.read s.bus s.devAddr.toNat) s.word then s.ctl.latch else s.ctl
    tpIn := s.tpIn.tail
    free := s.free + (1 - s.tpIn.length)
    dlIn := s.dlIn.tail
    trace := s.trace ++ [Event.write s.word, Event.delay n] }

@[simp] theorem wrote_prm (n : Micros) (s : State) : (wrote n s).prm = s.prm := rfl
@[simp] theorem wrote_pm (n : Micros) (s : State) : (wrote n s).pm = s.pm := rfl
@[simp] theorem wrote_mapValid (n : Micros) (s : State) :
    (wrote n s).mapValid = s.mapValid := rfl
@[simp] theorem wrote_blPol (n : Micros) (s : State) : (wrote n s).blPol = s.blPol := rfl
@[simp] theorem wrote_devAddr (n : Micros) (s : State) : (wrote n s).devAddr = s.devAddr := rfl
@[simp] theorem wrote_op (n : Micros) (s : State) : (wrote n s).op = s.op := rfl
@[simp] theorem wrote_a0 (n : Micros) (s : State) : (wrote n s).a0 = s.a0 := rfl
@[simp] theorem wrote_a1 (n : Micros) (s : State) : (wrote n s).a1 = s.a1 := rfl
@[simp] theorem wrote_a2 (n : Micros) (s : State) : (wrote n s).a2 = s.a2 := rfl
@[simp] theorem wrote_val (n : Micros) (s : State) : (wrote n s).val = s.val := rfl
@[simp] theorem wrote_rs (n : Micros) (s : State) : (wrote n s).rs = s.rs := rfl
@[simp] theorem wrote_rw (n : Micros) (s : State) : (wrote n s).rw = s.rw := rfl
@[simp] theorem wrote_len (n : Micros) (s : State) : (wrote n s).len = s.len := rfl
@[simp] theorem wrote_word (n : Micros) (s : State) : (wrote n s).word = s.word := rfl
@[simp] theorem wrote_rdHi (n : Micros) (s : State) : (wrote n s).rdHi = s.rdHi := rfl
@[simp] theorem wrote_rdLo (n : Micros) (s : State) : (wrote n s).rdLo = s.rdLo := rfl
@[simp] theorem wrote_status (n : Micros) (s : State) : (wrote n s).status = s.status := rfl
@[simp] theorem wrote_rdata (n : Micros) (s : State) : (wrote n s).rdata = s.rdata := rfl
@[simp] theorem wrote_cols (n : Micros) (s : State) : (wrote n s).cols = s.cols := rfl
@[simp] theorem wrote_rows (n : Micros) (s : State) : (wrote n s).rows = s.rows := rfl
@[simp] theorem wrote_font (n : Micros) (s : State) : (wrote n s).font = s.font := rfl
@[simp] theorem wrote_dispOn (n : Micros) (s : State) : (wrote n s).dispOn = s.dispOn := rfl
@[simp] theorem wrote_curOn (n : Micros) (s : State) : (wrote n s).curOn = s.curOn := rfl
@[simp] theorem wrote_blinkOn (n : Micros) (s : State) : (wrote n s).blinkOn = s.blinkOn := rfl
@[simp] theorem wrote_entryLtr (n : Micros) (s : State) :
    (wrote n s).entryLtr = s.entryLtr := rfl
@[simp] theorem wrote_autoscroll (n : Micros) (s : State) :
    (wrote n s).autoscroll = s.autoscroll := rfl
@[simp] theorem wrote_blOn (n : Micros) (s : State) : (wrote n s).blOn = s.blOn := rfl
@[simp] theorem wrote_initOk (n : Micros) (s : State) : (wrote n s).initOk = s.initOk := rfl
@[simp] theorem wrote_top (n : Micros) (s : State) : (wrote n s).top = s.top := rfl
@[simp] theorem wrote_seq (n : Micros) (s : State) : (wrote n s).seq = s.seq := rfl
@[simp] theorem wrote_npd (n : Micros) (s : State) : (wrote n s).npd = s.npd := rfl
@[simp] theorem wrote_rspValid (n : Micros) (s : State) :
    (wrote n s).rspValid = s.rspValid := rfl
@[simp] theorem wrote_req (n : Micros) (s : State) : (wrote n s).req = .none := rfl
@[simp] theorem wrote_bus (n : Micros) (s : State) :
    (wrote n s).bus = Memory.write s.bus s.devAddr.toNat s.word := rfl
@[simp] theorem wrote_ctl (n : Micros) (s : State) :
    (wrote n s).ctl = if enableFalls s.pm (Memory.read s.bus s.devAddr.toNat) s.word then s.ctl.latch else s.ctl := rfl
@[simp] theorem wrote_hostIn (n : Micros) (s : State) : (wrote n s).hostIn = s.hostIn := rfl
@[simp] theorem wrote_tpIn (n : Micros) (s : State) : (wrote n s).tpIn = s.tpIn.tail := rfl
@[simp] theorem wrote_dlIn (n : Micros) (s : State) : (wrote n s).dlIn = s.dlIn.tail := rfl
@[simp] theorem wrote_trace (n : Micros) (s : State) :
    (wrote n s).trace = s.trace ++ [Event.write s.word, Event.delay n] := rfl
@[simp] theorem wrote_layerOut (n : Micros) (s : State) :
    (wrote n s).layerOut = s.layerOut := rfl
@[simp] theorem wrote_free (n : Micros) (s : State) :
    (wrote n s).free = s.free + (1 - s.tpIn.length) := rfl
@[simp] theorem encWord_wrote (n : Micros) (s : State) (rs' rw' e : Bool) (n' : Nibble) :
    encWord (wrote n s) rs' rw' e n' = encWord s rs' rw' e n' := rfl

theorem write_then_delay {s : State} (n : Micros) (h : (transportAnswer s).isOk = true)
    (hd : DelaysEnd s) : (receiveWrite (issueWrite s)).andThen (delay n) = .going (wrote n s) := by
  rw [receiveWrite_ok (s := issueWrite s) h, Flow.going_andThen,
    delay_ends n fun a ha => hd a (by simpa using ha)]
  congr 1
  apply State.ext <;> simp

theorem write_fails {s : State} (n : Micros) (h : transportAnswer s = .fail) :
    (receiveWrite (issueWrite s)).andThen (delay n) =
      .aborted (maybeLandWord (requestDone (issueWrite s))) := by
  rw [receiveWrite_fail (s := issueWrite s) h]; rfl

theorem write_silent {s : State} (n : Micros) (h : transportAnswer s = .never) :
    (receiveWrite (issueWrite s)).andThen (delay n) = .waiting (issueWrite s) := by
  rw [receiveWrite_never (s := issueWrite s) h]; rfl

theorem read_ok {s : State} {b : Byte} (h : transportAnswer s = .ok b) :
    receiveRead (issueRead s) = .going (latchRead b (requestDone (issueRead s))) :=
  receiveRead_ok (s := issueRead s) h

theorem read_fails {s : State} (h : transportAnswer s = .fail) :
    receiveRead (issueRead s) = .aborted (requestDone (issueRead s)) :=
  receiveRead_fail (s := issueRead s) h

theorem read_silent {s : State} (h : transportAnswer s = .never) :
    receiveRead (issueRead s) = .waiting (issueRead s) := receiveRead_never (s := issueRead s) h

/-! ### The map check -/

theorem checked_valid {s : State} (body : State → State) (h : s.mapValid = true) :
    checked body s = body s := by rw [checked, if_pos h]

theorem checked_invalid {s : State} (body : State → State) (h : s.mapValid = false) :
    checked body s = raise .configError s := by rw [checked, if_neg (by simp [h])]

/-! ### The rows of the driver -/

/-- What an encoded word depends on. -/
theorem encWord_congr {s t : State} (h1 : s.pm = t.pm) (h2 : s.blOn = t.blOn) (h3 : s.blPol = t.blPol)
    (rs rw e : Bool) (n : Nibble) : encWord s rs rw e n = encWord t rs rw e n := by
  simp only [encWord, blMask, backlightLevel, h1, h2, h3]

theorem eMask_congr {s t : State} (h : s.pm = t.pm) : eMask s = eMask t := by simp only [eMask, h]

/-- The word a writing row hands out, by the row. -/
def rowWord (s : State) : Byte :=
  match s.npd with
  | .assembleHigh => encWord s s.rs s.rw true (highNibble s.val)
  | .assembleLow => encWord s s.rs s.rw true (lowNibble s.val)
  | .pulseHigh => s.word &&& ~~~(eMask s)
  | .pulseLow => s.word &&& ~~~(eMask s)
  | .done => s.word
  | .sampleHigh => s.word
  | .sampleLow => s.word

/-- A row that writes. -/
abbrev Npd.Writes (q : Npd) : Prop :=
  q = .assembleHigh ∨ q = .assembleLow ∨ q = .pulseHigh ∨ q = .pulseLow

theorem npdAction_write {s : State} (h : s.npd.Writes) :
    npdAction s = (receiveWrite (issueWrite (putWord (rowWord s) s))).andThen (delay (npdWait s)) := by
  unfold npdAction npdIssue rowWord clearEnable
  rcases h with h | h | h | h <;> simp only [h]

theorem npdAction_read {s : State} (h : s.npd = .sampleHigh ∨ s.npd = .sampleLow) :
    npdAction s = receiveRead (issueRead s) := by
  unfold npdAction npdIssue
  rcases h with h | h <;> simp only [h]

/-- A writing row whose call was answered ok and whose wait ended. -/
theorem npdStep_write {s : State} (hn : s.npd.Writes) (h : (transportAnswer s).isOk = true)
    (hd : DelaysEnd s) : npdStep s = .going (npdAdvance (wrote (npdWait s) (putWord (rowWord s) s))) := by
  rw [npdStep, npdAction_write hn, write_then_delay (s := putWord (rowWord s) s) _ h hd]; rfl

theorem npdStep_read {s : State} {b : Byte} (hn : s.npd = .sampleHigh ∨ s.npd = .sampleLow)
    (h : transportAnswer s = .ok b) :
    npdStep s = .going (npdAdvance (latchRead b (requestDone (issueRead s)))) := by
  rw [npdStep, npdAction_read hn, read_ok h]; rfl

theorem npdStep_write_fails {s : State} (hn : s.npd.Writes) (h : transportAnswer s = .fail) :
    npdStep s = .aborted (maybeLandWord (requestDone (issueWrite (putWord (rowWord s) s)))) := by
  rw [npdStep, npdAction_write hn, write_fails (s := putWord (rowWord s) s) _ h]; rfl

theorem npdStep_read_fails {s : State} (hn : s.npd = .sampleHigh ∨ s.npd = .sampleLow)
    (h : transportAnswer s = .fail) : npdStep s = .aborted (requestDone (issueRead s)) := by
  rw [npdStep, npdAction_read hn, read_fails h]; rfl

theorem npdStep_write_silent {s : State} (hn : s.npd.Writes) (h : transportAnswer s = .never) :
    npdStep s = .waiting (issueWrite (putWord (rowWord s) s)) := by
  rw [npdStep, npdAction_write hn, write_silent (s := putWord (rowWord s) s) _ h]; rfl

theorem npdStep_read_silent {s : State} (hn : s.npd = .sampleHigh ∨ s.npd = .sampleLow)
    (h : transportAnswer s = .never) : npdStep s = .waiting (issueRead s) := by
  rw [npdStep, npdAction_read hn, read_silent h]; rfl

theorem npdRun_step {s t : State} (n : Nat) (hn : s.npd ≠ .done) (h : npdStep s = .going t) :
    npdRun (n + 1) s = npdRun n t := by rw [npdRun, if_neg hn, h]; rfl

theorem npdRun_done {s : State} (n : Nat) (h : s.npd = .done) : npdRun n s = .going s := by
  cases n <;> simp [npdRun, h]

end Sys2Proof.Machine
end

