-- ==== Sys2Proof/Laws/Frame.lean ====
section
/-! SUPPORT. What transfers, waits and the sequencer leave alone, whatever the collaborators answer. -/

namespace Sys2Proof.Machine

/-- The state a flow carries, however it ended. -/
def Flow.state : Flow → State
  | .going s => s
  | .aborted s => s
  | .waiting s => s

@[simp] theorem Flow.going_state (s : State) : (Flow.going s).state = s := rfl
@[simp] theorem Flow.aborted_state (s : State) : (Flow.aborted s).state = s := rfl
@[simp] theorem Flow.waiting_state (s : State) : (Flow.waiting s).state = s := rfl

/-- A transitive relation between the state before and the state carried passes through `andThen`. -/
theorem Flow.rel_andThen {R : State → State → Prop} (ht : ∀ a b c, R a b → R b c → R a c) {s : State}
    {f : Flow} {k : State → Flow} (hf : R s f.state) (hk : ∀ t, f = .going t → R t (k t).state) :
    R s (f.andThen k).state := by
  cases f with
  | going t => exact ht _ _ _ hf (hk t rfl)
  | aborted t => exact hf
  | waiting t => exact hf

/-- Settling leaves the state carried, or what a failed call makes of it. -/
theorem Flow.settle_eq (g : State → State) (f : Flow) :
    f.settle g = f.state ∨ f.settle g = g f.state := by cases f <;> simp [Flow.settle]

/-- What no call, wait or transfer writes: the configuration, the operand and response latches, the
geometry, the shadow flags, `BL_ON`, `INIT_OK`, `TOP`, and every other device's latch. -/
structure Kept (s t : State) : Prop where
  prm : t.prm = s.prm
  pm : t.pm = s.pm
  mapValid : t.mapValid = s.mapValid
  blPol : t.blPol = s.blPol
  devAddr : t.devAddr = s.devAddr
  op : t.op = s.op
  a0 : t.a0 = s.a0
  a1 : t.a1 = s.a1
  a2 : t.a2 = s.a2
  status : t.status = s.status
  rdata : t.rdata = s.rdata
  cols : t.cols = s.cols
  rows : t.rows = s.rows
  font : t.font = s.font
  dispOn : t.dispOn = s.dispOn
  curOn : t.curOn = s.curOn
  blinkOn : t.blinkOn = s.blinkOn
  entryLtr : t.entryLtr = s.entryLtr
  autoscroll : t.autoscroll = s.autoscroll
  blOn : t.blOn = s.blOn
  initOk : t.initOk = s.initOk
  top : t.top = s.top
  rspValid : t.rspValid = s.rspValid
  hostIn : t.hostIn = s.hostIn
  layerOut : t.layerOut = s.layerOut
  bus : ∀ a, a ≠ s.devAddr.toNat → Memory.read t.bus a = Memory.read s.bus a
  canonical : Memory.wf s.bus = true → Memory.wf t.bus = true

theorem Kept.refl (s : State) : Kept s s := by constructor <;> first | rfl | intros; trivial

theorem Kept.trans (a b c : State) (h : Kept a b) (g : Kept b c) : Kept a c := by
  constructor
  case bus => exact fun x hx => (g.bus x (by rw [h.devAddr]; exact hx)).trans (h.bus x hx)
  case canonical => exact fun hw => g.canonical (h.canonical hw)
  all_goals first
    | exact g.prm.trans h.prm | exact g.pm.trans h.pm | exact g.mapValid.trans h.mapValid
    | exact g.blPol.trans h.blPol | exact g.devAddr.trans h.devAddr | exact g.op.trans h.op
    | exact g.a0.trans h.a0 | exact g.a1.trans h.a1 | exact g.a2.trans h.a2
    | exact g.status.trans h.status | exact g.rdata.trans h.rdata | exact g.cols.trans h.cols
    | exact g.rows.trans h.rows | exact g.font.trans h.font | exact g.dispOn.trans h.dispOn
    | exact g.curOn.trans h.curOn | exact g.blinkOn.trans h.blinkOn
    | exact g.entryLtr.trans h.entryLtr | exact g.autoscroll.trans h.autoscroll
    | exact g.blOn.trans h.blOn | exact g.initOk.trans h.initOk | exact g.top.trans h.top
    | exact g.rspValid.trans h.rspValid | exact g.hostIn.trans h.hostIn
    | exact g.layerOut.trans h.layerOut

/-- An update that touches no memory and none of those registers. -/
theorem Kept.landWord (s : State) : Kept s (landWord s) := by
  constructor
  case bus => exact fun a ha => Memory.read_write_other _ ha
  case canonical => exact fun h => Memory.wf_write _ _ h
  all_goals rfl

theorem Kept.requestDone (s : State) : Kept s (requestDone s) := by
  constructor <;> simp

theorem Kept.maybeLandWord (s : State) : Kept s (maybeLandWord s) := by
  constructor
  case bus => intro a ha; rw [maybeLandWord_bus]; split <;> simp [Memory.read_write_other _ ha]
  case canonical => intro h; rw [maybeLandWord_bus]; split <;> simp [h, Memory.wf_write]
  all_goals rfl

theorem Kept.latchRead (b : Byte) (s : State) : Kept s (latchRead b s) := by constructor <;> simp
theorem Kept.issueWrite (s : State) : Kept s (issueWrite s) := by constructor <;> simp
theorem Kept.issueRead (s : State) : Kept s (issueRead s) := by constructor <;> simp
theorem Kept.issueDelay (n : Micros) (s : State) : Kept s (issueDelay n s) := by constructor <;> simp
theorem Kept.endDelay (s : State) : Kept s (endDelay s) := by constructor <;> simp
theorem Kept.putWord (w : Byte) (s : State) : Kept s (putWord w s) := by constructor <;> simp
theorem Kept.npdAdvance (s : State) : Kept s (npdAdvance s) := by constructor <;> simp
theorem Kept.xferStart (rs rw : Bool) (v : Byte) (len : Bool) (s : State) :
    Kept s (xferStart rs rw v len s) := by constructor <;> simp

theorem Kept.receiveWrite (s : State) : Kept s (receiveWrite s).state := by
  unfold Machine.receiveWrite
  split
  · exact Kept.trans _ _ _ (Kept.requestDone s) (Kept.landWord _)
  · exact Kept.trans _ _ _ (Kept.requestDone s) (Kept.maybeLandWord _)
  · exact Kept.refl s

theorem Kept.receiveRead (s : State) : Kept s (receiveRead s).state := by
  unfold Machine.receiveRead
  split
  · exact Kept.trans _ _ _ (Kept.requestDone s) (Kept.latchRead _ _)
  · exact Kept.requestDone s
  · exact Kept.refl s

theorem Kept.receiveDelay (s : State) : Kept s (receiveDelay s).state := by
  unfold Machine.receiveDelay
  split
  · exact Kept.refl s
  · exact Kept.endDelay s
  · exact Kept.endDelay s

theorem Kept.delay (n : Micros) (s : State) : Kept s (delay n s).state :=
  Kept.trans _ _ _ (Kept.issueDelay n s) (Kept.receiveDelay _)

theorem Kept.ownDelay (n : Option Micros) (s : State) : Kept s (ownDelay n s).state := by
  cases n with
  | some n => exact Kept.delay n s
  | none => exact Kept.refl s

theorem Kept.npdIssue (s : State) : Kept s (npdIssue s) := by
  unfold Machine.npdIssue
  split
  · exact Kept.refl s
  · exact Kept.trans _ _ _ (Kept.putWord _ s) (Kept.issueWrite _)
  · exact Kept.trans _ _ _ (Kept.putWord _ s) (Kept.issueWrite _)
  · exact Kept.trans _ _ _ (Kept.putWord _ s) (Kept.issueWrite _)
  · exact Kept.trans _ _ _ (Kept.putWord _ s) (Kept.issueWrite _)
  · exact Kept.issueRead s
  · exact Kept.issueRead s

theorem Kept.npdAction (s : State) : Kept s (npdAction s).state := by
  have hw : Kept s (Machine.receiveWrite (Machine.npdIssue s)).state :=
    Kept.trans _ _ _ (Kept.npdIssue s) (Kept.receiveWrite _)
  have hr : Kept s (Machine.receiveRead (Machine.npdIssue s)).state :=
    Kept.trans _ _ _ (Kept.npdIssue s) (Kept.receiveRead _)
  unfold Machine.npdAction
  split
  · exact Kept.refl s
  · exact hr
  · exact hr
  · exact Flow.rel_andThen Kept.trans hw fun t _ => Kept.delay _ t

theorem Kept.npdStep (s : State) : Kept s (npdStep s).state :=
  Flow.rel_andThen Kept.trans (Kept.npdAction s) fun t _ => Kept.npdAdvance t

theorem Kept.npdRun (n : Nat) (s : State) : Kept s (npdRun n s).state := by
  induction n generalizing s with
  | zero => exact Kept.refl s
  | succ n ih =>
    rw [Machine.npdRun]
    split
    · exact Kept.refl s
    · exact Flow.rel_andThen Kept.trans (Kept.npdStep s) fun t _ => ih t

/-- A whole transfer, whatever its calls answer. -/
theorem Kept.xfer (rs rw : Bool) (v : Byte) (len : Bool) (s : State) :
    Kept s (xfer rs rw v len s).state :=
  Kept.trans _ _ _ (Kept.xferStart rs rw v len s) (Kept.npdRun 6 _)

theorem Kept.seqSend (r : SeqRow) (s : State) : Kept s (seqSend r s).state :=
  Flow.rel_andThen Kept.trans (Kept.xfer _ _ _ _ s) fun t _ => Kept.ownDelay _ t

theorem Kept.seqAction (s : State) : Kept s (seqAction s).state := by
  unfold Machine.seqAction
  split
  · exact Kept.seqSend _ s
  · split
    · exact Kept.delay _ s
    · exact Kept.refl s

theorem Kept.seqAdvance (s : State) : Kept s (seqAdvance s) := by
  constructor <;> simp [Machine.seqAdvance]

/-- The whole sequencer, whatever its calls answer. -/
theorem Kept.seqRun (n : Nat) (s : State) : Kept s (seqRun n s).state := by
  induction n generalizing s with
  | zero => exact Kept.refl s
  | succ n ih =>
    rw [Machine.seqRun]
    split
    · exact Flow.rel_andThen Kept.trans (Kept.seqAction s) fun t _ =>
        Kept.trans _ _ _ (Kept.seqAdvance t) (ih _)
    · exact Kept.refl s

end Sys2Proof.Machine
end

