-- ==== Sys2Proof/Laws/Host.lean ====
section
/-! SUPPORT. The host's premises: the use of each input, and what keeping the rules for a while says. -/

namespace Sys2Proof.Machine

@[simp] theorem wait_use (us : Nat) : (HostEvent.wait us).use = .outside := rfl
@[simp] theorem reset_use (decl : BitVec 32) (pol : Bool) (addr : DevAddr) :
    (HostEvent.reset decl pol addr).use = .outside := rfl
@[simp] theorem powerLoss_use : HostEvent.powerLoss.use = .outside := rfl
@[simp] theorem call_use (c : LayerCall) :
    (HostEvent.call c).use = .layer (c == .clear || c == .home) := rfl

/-- A fetched word that decodes has the use of its instruction. -/
theorem fetch_use {f : Fetched} {i : Instr} (h : decode f = .ok i) :
    (HostEvent.fetch f).use = instrUse i := by simp [HostEvent.use, h]

/-- A fetched word of no instruction is no host's to issue. -/
theorem fetch_use_of_error {f : Fetched} {x : DecodeError} (h : decode f = .error x) :
    (HostEvent.fetch f).use = .foreign := by simp [HostEvent.use, h]

/-- What an input that keeps the rules tells. -/
theorem Duties.keeps_iff {bound : Nat} {d : Duties} {c : Condition} {e : HostEvent} :
    d.keeps bound c e = true ↔
      e.use ≠ .foreign ∧ layerAfterInit c e.use = true ∧ initBeforeUse c e.use = true ∧
        d.settleKept e.use = true ∧ d.reinitKept e.use = true ∧ d.pollsBounded bound e.use = true ∧
        d.powerKept e.use = true := by
  simp [Duties.keeps, mayIssue, and_assoc]

/-- An idle framer takes the first input; a busy one takes a reset alone. -/
theorem inputTaken_idle {s : State} {e : HostEvent} {r : List HostEvent} (ht : s.top = .idle)
    (h : s.hostIn = e :: r) : inputTaken s = some e := by
  cases e <;> simp [inputTaken, ht, h]

theorem inputTaken_none {s : State} (h : s.hostIn = []) : inputTaken s = none := by
  cases ht : s.top <;> simp [inputTaken, h, ht]

/-- Keeping the rules for `n + 1` steps is keeping them now, and for `n` steps from the next state. -/
theorem hostKeeps_next {bound n : Nat} {d : Duties} {s t : State} (h : step s = .next t) :
    hostKeeps bound (n + 1) d s = (hostInOrder bound d s && hostKeeps bound n (d.step s t) t) := by
  simp [hostKeeps, h]

/-- Rules kept for longer are kept for a shorter while. -/
theorem hostKeeps_of_succ {bound n : Nat} {d : Duties} {s : State}
    (h : hostKeeps bound (n + 1) d s = true) : hostKeeps bound n d s = true := by
  induction n generalizing d s with
  | zero => rfl
  | succ n ih =>
    unfold hostKeeps at h ⊢
    rw [Bool.and_eq_true] at h ⊢
    refine ⟨h.1, ?_⟩
    cases hs : step s with
    | next t => rw [hs] at h; exact ih h.2
    | fault _ => rfl
    | refused _ => rfl

/-- A step without an input leaves the duties. -/
@[simp] theorem Duties.step_of_none {s t : State} {d : Duties} (h : inputTaken s = none) :
    d.step s t = d := by simp [Duties.step, h]

theorem Duties.step_of_some {s t : State} {d : Duties} {e : HostEvent} (h : inputTaken s = some e) :
    d.step s t = d.next s t e := by simp [Duties.step, h]

/-- Waits add up (R351). -/
@[simp] theorem settleOwed_wait (s t : State) (us owed : Nat) :
    settleOwed s t (.wait us) owed = owed - us := rfl

/-- A framer that is not `READY` owes nothing to the alignment. -/
theorem aligned_of_not_ready {d : Duties} {s : State} (h : condition s ≠ .ready) : Aligned d s :=
  fun hr => absurd hr h

end Sys2Proof.Machine
end

