-- ==== Sys2Proof/Laws/Layer.lean ====
section
/-! SUPPORT. What the layer's shared operations do outwards, whatever the collaborators answer. -/

namespace Sys2Proof.Machine

/-- The byte operations of the framer write nothing of the layer's output. -/
theorem byteBody_layerOut (rs : Bool) (s : State) : (byteBody rs s).layerOut = s.layerOut := by
  have h := (Kept.xfer rs false s.a0 true s).layerOut
  unfold byteBody
  cases hx : xfer rs false s.a0 true s <;> rw [hx] at h <;> simpa [Flow.andThen, Flow.settle] using h

theorem checked_byteBody_layerOut (rs : Bool) (s : State) :
    (checked (byteBody rs) s).layerOut = s.layerOut := by
  unfold checked
  split
  · exact byteBody_layerOut rs s
  · simp

/-- One CMD of the layer puts one word on the command channel, and nothing else. -/
@[simp] theorem layerCmd_layerOut (byte : Byte) (s : State) :
    (layerCmd byte s).layerOut = s.layerOut ++ [LayerEvent.issue (cmdWord opCmd byte 0#8 0#8)] := by
  simp [layerCmd, checked_byteBody_layerOut]

/-- One DATA of the layer likewise. -/
@[simp] theorem layerData_layerOut (byte : Byte) (s : State) :
    (layerData byte s).layerOut = s.layerOut ++ [LayerEvent.issue (cmdWord opData byte 0#8 0#8)] := by
  simp [layerData, checked_byteBody_layerOut]

/-- What `layerPattern` issues: one DATA for each byte of a prefix of the list, first byte first. -/
theorem layerPattern_layerOut (l : List Byte) (s : State) :
    ∃ p, p <+: l ∧ (layerPattern l s).layerOut =
      s.layerOut ++ p.map fun b => LayerEvent.issue (cmdWord opData b 0#8 0#8) := by
  induction l generalizing s with
  | nil => exact ⟨[], List.nil_prefix, by simp [layerPattern]⟩
  | cons b r ih =>
    rw [layerPattern]
    split
    · obtain ⟨p, hp, h⟩ := ih (layerData b s)
      exact ⟨b :: p, List.cons_prefix_cons.mpr ⟨rfl, hp⟩, by simp [h]⟩
    · exact ⟨[], List.nil_prefix, by simp⟩

/-- A pattern of the font's length is sent as it is (R279). -/
@[simp] theorem glyphData_of_length {pattern : List Byte} {s : State}
    (h : pattern.length = glyphBytes s.font) : glyphData pattern s = pattern := if_pos h

@[simp] theorem takeGlyph_of_length {pattern : List Byte} {s : State}
    (h : pattern.length = glyphBytes s.font) : takeGlyph pattern s = s := by
  rw [takeGlyph, if_pos h]

/-- LOADGLYPH runs for every pattern. It issues the CMD of the clamped slot's address first, then one DATA
for each byte of a prefix of what it sends: of the pattern, when that has the font's length. -/
theorem loadGlyph_layerOut (slot : Byte) (pattern : List Byte) (s : State) :
    ∃ p, p <+: glyphData pattern s ∧ runCall (.loadGlyph slot pattern) s = .next (loadGlyph slot pattern s) ∧
      (loadGlyph slot pattern s).layerOut = s.layerOut ++
        LayerEvent.issue (cmdWord opCmd (setcgramByte (cgramAddress s.font slot)) 0#8 0#8) ::
          p.map fun b => LayerEvent.issue (cmdWord opData b 0#8 0#8) := by
  obtain ⟨p, hp, h⟩ := layerPattern_layerOut (glyphData pattern s)
    (layerCmd (setcgramByte (cgramAddress s.font slot)) (takeGlyph pattern s))
  exact ⟨p, hp, rfl, by rw [loadGlyph, h]; simp⟩

end Sys2Proof.Machine
end

