-- ==== Sys2Proof/Laws/PerInstr.lean ====
section
/-! SUPPORT. Facts about every instruction as syntax, one lemma per constructor. -/

namespace Sys2Proof.Laws.TableBits

/-- The bits of a fetched word, as the opcode table numbers them. -/
def bits : Fetched → BitVec 28
  | .port w => w
  | .sequencer _ v => v.setWidth 28
  | .layer v => v.setWidth 28

/-- The match and the mask of an instruction's row in spec/opcode_table.json. -/
def row : Instr → BitVec 28 × BitVec 28
  | .init _ _ _ => (0x1000000#28, 0xF000000#28)
  | .cmd _ _ _ => (0x2000000#28, 0xF000000#28)
  | .data _ _ _ => (0x3000000#28, 0xF000000#28)
  | .backlight _ _ _ => (0x4000000#28, 0xF000000#28)
  | .rdbf _ _ _ => (0x5000000#28, 0xF000000#28)
  | .rdac _ _ _ => (0x6000000#28, 0xF000000#28)
  | .kProbe _ => (0x30#28, 0xF0#28)
  | .kSwitch4 _ => (0x20#28, 0xF0#28)
  | .kFuncset _ _ => (0x20#28, 0xF3#28)
  | .kDisplayOff => (0x08#28, 0xFF#28)
  | .kClear => (0x01#28, 0xFF#28)
  | .kEntryLtr => (0x06#28, 0xFF#28)
  | .kDisplayOn => (0x0C#28, 0xFF#28)
  | .clear => (0x01#28, 0xFF#28)
  | .home => (0x02#28, 0xFF#28)
  | .setddram _ => (0x80#28, 0x80#28)
  | .displayctl _ _ _ => (0x08#28, 0xF8#28)
  | .entrymode _ _ => (0x04#28, 0xFC#28)
  | .shift _ => (0x18#28, 0xFB#28)
  | .setcgram _ => (0x40#28, 0xC0#28)

/-- The encoding of an instruction has the fixed bits of its row (R96, R100, R106). -/
def Statement (i : Instr) : Prop := bits (encode i) &&& (row i).2 = (row i).1

/-- The opcode field of a command word, whatever its arguments. -/
theorem cmdWord_op (op : BitVec 4) (a0 a1 a2 : Byte) :
    cmdWord op a0 a1 a2 &&& 0xF000000#28 = op ++ 0#24 := by
  apply BitVec.eq_of_getLsbD_eq
  intro k hk
  rw [BitVec.getLsbD_and, cmdWord, BitVec.getLsbD_append (x := op ++ a0 ++ a1) (y := a2),
    BitVec.getLsbD_append (x := op ++ a0) (y := a1), BitVec.getLsbD_append (x := op) (y := a0),
    BitVec.getLsbD_append (x := op) (y := 0#24)]
  interval_cases k <;> simp

theorem init (a0 a1 a2 : Byte) : Statement (.init a0 a1 a2) := cmdWord_op 1#4 a0 a1 a2
theorem cmd (a0 a1 a2 : Byte) : Statement (.cmd a0 a1 a2) := cmdWord_op 2#4 a0 a1 a2
theorem data (a0 a1 a2 : Byte) : Statement (.data a0 a1 a2) := cmdWord_op 3#4 a0 a1 a2
theorem backlight (a0 a1 a2 : Byte) : Statement (.backlight a0 a1 a2) := cmdWord_op 4#4 a0 a1 a2
theorem rdbf (a0 a1 a2 : Byte) : Statement (.rdbf a0 a1 a2) := cmdWord_op 5#4 a0 a1 a2
theorem rdac (a0 a1 a2 : Byte) : Statement (.rdac a0 a1 a2) := cmdWord_op 6#4 a0 a1 a2
theorem kProbe (x : Nibble) : Statement (.kProbe x) := by revert x; unfold Statement; decide
theorem kSwitch4 (x : Nibble) : Statement (.kSwitch4 x) := by revert x; unfold Statement; decide
theorem kFuncset (n f : Bool) : Statement (.kFuncset n f) := by revert n f; unfold Statement; decide
theorem kDisplayOff : Statement .kDisplayOff := by unfold Statement; decide
theorem kClear : Statement .kClear := by unfold Statement; decide
theorem kEntryLtr : Statement .kEntryLtr := by unfold Statement; decide
theorem kDisplayOn : Statement .kDisplayOn := by unfold Statement; decide
theorem clear : Statement .clear := by unfold Statement; decide
theorem home : Statement .home := by unfold Statement; decide
theorem setddram (a : BitVec 7) : Statement (.setddram a) := by revert a; unfold Statement; decide
theorem displayctl (d c b : Bool) : Statement (.displayctl d c b) := by
  revert d c b; unfold Statement; decide
theorem entrymode (i s : Bool) : Statement (.entrymode i s) := by revert i s; unfold Statement; decide
theorem shift (r : Bool) : Statement (.shift r) := by revert r; unfold Statement; decide
theorem setcgram (a : BitVec 6) : Statement (.setcgram a) := by revert a; unfold Statement; decide

end Sys2Proof.Laws.TableBits
end

