-- ==== Sys2Proof/Laws/Transfer.lean ====
section
/-! SUPPORT. A whole phase of a transfer in which every call is answered ok, and the whole transfer. -/

namespace Sys2Proof.Machine

/-- One phase of a write transfer, both calls answered ok. -/
def phaseWritten (n : Nibble) (next : Npd) (s : State) : State :=
  { s with
    word := encWord s s.rs false false n
    npd := next
    req := .none
    bus := Memory.write s.bus s.devAddr.toNat (encWord s s.rs false false n)
    ctl := s.ctl.latch
    tpIn := s.tpIn.drop 2
    free := s.free + (2 - s.tpIn.length)
    dlIn := s.dlIn.drop 2
    trace := s.trace ++ nibbleEvents s s.rs n }

@[simp] theorem phaseWritten_prm (n : Nibble) (next : Npd) (s : State) :
    (phaseWritten n next s).prm = s.prm := rfl
@[simp] theorem phaseWritten_pm (n : Nibble) (next : Npd) (s : State) :
    (phaseWritten n next s).pm = s.pm := rfl
@[simp] theorem phaseWritten_mapValid (n : Nibble) (next : Npd) (s : State) :
    (phaseWritten n next s).mapValid = s.mapValid := rfl
@[simp] theorem phaseWritten_blPol (n : Nibble) (next : Npd) (s : State) :
    (phaseWritten n next s).blPol = s.blPol := rfl
@[simp] theorem phaseWritten_devAddr (n : Nibble) (next : Npd) (s : State) :
    (phaseWritten n next s).devAddr = s.devAddr := rfl
@[simp] theorem phaseWritten_op (n : Nibble) (next : Npd) (s : State) :
    (phaseWritten n next s).op = s.op := rfl
@[simp] theorem phaseWritten_a0 (n : Nibble) (next : Npd) (s : State) :
    (phaseWritten n next s).a0 = s.a0 := rfl
@[simp] theorem phaseWritten_a1 (n : Nibble) (next : Npd) (s : State) :
    (phaseWritten n next s).a1 = s.a1 := rfl
@[simp] theorem phaseWritten_a2 (n : Nibble) (next : Npd) (s : State) :
    (phaseWritten n next s).a2 = s.a2 := rfl
@[simp] theorem phaseWritten_val (n : Nibble) (next : Npd) (s : State) :
    (phaseWritten n next s).val = s.val := rfl
@[simp] theorem phaseWritten_rs (n : Nibble) (next : Npd) (s : State) :
    (phaseWritten n next s).rs = s.rs := rfl
@[simp] theorem phaseWritten_rw (n : Nibble) (next : Npd) (s : State) :
    (phaseWritten n next s).rw = s.rw := rfl
@[simp] theorem phaseWritten_len (n : Nibble) (next : Npd) (s : State) :
    (phaseWritten n next s).len = s.len := rfl
@[simp] theorem phaseWritten_word (n : Nibble) (next : Npd) (s : State) :
    (phaseWritten n next s).word = encWord s s.rs false false n := rfl
@[simp] theorem phaseWritten_rdHi (n : Nibble) (next : Npd) (s : State) :
    (phaseWritten n next s).rdHi = s.rdHi := rfl
@[simp] theorem phaseWritten_rdLo (n : Nibble) (next : Npd) (s : State) :
    (phaseWritten n next s).rdLo = s.rdLo := rfl
@[simp] theorem phaseWritten_status (n : Nibble) (next : Npd) (s : State) :
    (phaseWritten n next s).status = s.status := rfl
@[simp] theorem phaseWritten_rdata (n : Nibble) (next : Npd) (s : State) :
    (phaseWritten n next s).rdata = s.rdata := rfl
@[simp] theorem phaseWritten_cols (n : Nibble) (next : Npd) (s : State) :
    (phaseWritten n next s).cols = s.cols := rfl
@[simp] theorem phaseWritten_rows (n : Nibble) (next : Npd) (s : State) :
    (phaseWritten n next s).rows = s.rows := rfl
@[simp] theorem phaseWritten_font (n : Nibble) (next : Npd) (s : State) :
    (phaseWritten n next s).font = s.font := rfl
@[simp] theorem phaseWritten_dispOn (n : Nibble) (next : Npd) (s : State) :
    (phaseWritten n next s).dispOn = s.dispOn := rfl
@[simp] theorem phaseWritten_curOn (n : Nibble) (next : Npd) (s : State) :
    (phaseWritten n next s).curOn = s.curOn := rfl
@[simp] theorem phaseWritten_blinkOn (n : Nibble) (next : Npd) (s : State) :
    (phaseWritten n next s).blinkOn = s.blinkOn := rfl
@[simp] theorem phaseWritten_entryLtr (n : Nibble) (next : Npd) (s : State) :
    (phaseWritten n next s).entryLtr = s.entryLtr := rfl
@[simp] theorem phaseWritten_autoscroll (n : Nibble) (next : Npd) (s : State) :
    (phaseWritten n next s).autoscroll = s.autoscroll := rfl
@[simp] theorem phaseWritten_blOn (n : Nibble) (next : Npd) (s : State) :
    (phaseWritten n next s).blOn = s.blOn := rfl
@[simp] theorem phaseWritten_initOk (n : Nibble) (next : Npd) (s : State) :
    (phaseWritten n next s).initOk = s.initOk := rfl
@[simp] theorem phaseWritten_top (n : Nibble) (next : Npd) (s : State) :
    (phaseWritten n next s).top = s.top := rfl
@[simp] theorem phaseWritten_seq (n : Nibble) (next : Npd) (s : State) :
    (phaseWritten n next s).seq = s.seq := rfl
@[simp] theorem phaseWritten_npd (n : Nibble) (next : Npd) (s : State) :
    (phaseWritten n next s).npd = next := rfl
@[simp] theorem phaseWritten_rspValid (n : Nibble) (next : Npd) (s : State) :
    (phaseWritten n next s).rspValid = s.rspValid := rfl
@[simp] theorem phaseWritten_req (n : Nibble) (next : Npd) (s : State) :
    (phaseWritten n next s).req = .none := rfl
@[simp] theorem phaseWritten_bus (n : Nibble) (next : Npd) (s : State) :
    (phaseWritten n next s).bus = Memory.write s.bus s.devAddr.toNat (encWord s s.rs false false n) := rfl
@[simp] theorem phaseWritten_ctl (n : Nibble) (next : Npd) (s : State) :
    (phaseWritten n next s).ctl = s.ctl.latch := rfl
@[simp] theorem phaseWritten_hostIn (n : Nibble) (next : Npd) (s : State) :
    (phaseWritten n next s).hostIn = s.hostIn := rfl
@[simp] theorem phaseWritten_tpIn (n : Nibble) (next : Npd) (s : State) :
    (phaseWritten n next s).tpIn = s.tpIn.drop 2 := rfl
@[simp] theorem phaseWritten_dlIn (n : Nibble) (next : Npd) (s : State) :
    (phaseWritten n next s).dlIn = s.dlIn.drop 2 := rfl
@[simp] theorem phaseWritten_trace (n : Nibble) (next : Npd) (s : State) :
    (phaseWritten n next s).trace = s.trace ++ nibbleEvents s s.rs n := rfl
@[simp] theorem phaseWritten_layerOut (n : Nibble) (next : Npd) (s : State) :
    (phaseWritten n next s).layerOut = s.layerOut := rfl
@[simp] theorem phaseWritten_free (n : Nibble) (next : Npd) (s : State) :
    (phaseWritten n next s).free = s.free + (2 - s.tpIn.length) := rfl
@[simp] theorem encWord_phaseWritten (n : Nibble) (next : Npd) (s : State) (rs' rw' e : Bool) (n' : Nibble) :
    encWord (phaseWritten n next s) rs' rw' e n' = encWord s rs' rw' e n' := rfl

/-- One phase of a read transfer, its three calls answered ok, the read with `b`. -/
def phaseRead (low : Bool) (b : Byte) (next : Npd) (s : State) : State :=
  { s with
    word := encWord s false true false 0xF#4
    npd := next
    req := .none
    rdHi := if low then s.rdHi else b
    rdLo := if low then b else s.rdLo
    bus := Memory.write s.bus s.devAddr.toNat (encWord s false true false 0xF#4)
    ctl := s.ctl.latch
    tpIn := s.tpIn.drop 3
    free := s.free + (3 - s.tpIn.length)
    dlIn := s.dlIn.drop 2
    trace := s.trace ++ readPhaseEvents s }

@[simp] theorem phaseRead_prm (low : Bool) (b : Byte) (next : Npd) (s : State) :
    (phaseRead low b next s).prm = s.prm := rfl
@[simp] theorem phaseRead_pm (low : Bool) (b : Byte) (next : Npd) (s : State) :
    (phaseRead low b next s).pm = s.pm := rfl
@[simp] theorem phaseRead_mapValid (low : Bool) (b : Byte) (next : Npd) (s : State) :
    (phaseRead low b next s).mapValid = s.mapValid := rfl
@[simp] theorem phaseRead_blPol (low : Bool) (b : Byte) (next : Npd) (s : State) :
    (phaseRead low b next s).blPol = s.blPol := rfl
@[simp] theorem phaseRead_devAddr (low : Bool) (b : Byte) (next : Npd) (s : State) :
    (phaseRead low b next s).devAddr = s.devAddr := rfl
@[simp] theorem phaseRead_op (low : Bool) (b : Byte) (next : Npd) (s : State) :
    (phaseRead low b next s).op = s.op := rfl
@[simp] theorem phaseRead_a0 (low : Bool) (b : Byte) (next : Npd) (s : State) :
    (phaseRead low b next s).a0 = s.a0 := rfl
@[simp] theorem phaseRead_a1 (low : Bool) (b : Byte) (next : Npd) (s : State) :
    (phaseRead low b next s).a1 = s.a1 := rfl
@[simp] theorem phaseRead_a2 (low : Bool) (b : Byte) (next : Npd) (s : State) :
    (phaseRead low b next s).a2 = s.a2 := rfl
@[simp] theorem phaseRead_val (low : Bool) (b : Byte) (next : Npd) (s : State) :
    (phaseRead low b next s).val = s.val := rfl
@[simp] theorem phaseRead_rs (low : Bool) (b : Byte) (next : Npd) (s : State) :
    (phaseRead low b next s).rs = s.rs := rfl
@[simp] theorem phaseRead_rw (low : Bool) (b : Byte) (next : Npd) (s : State) :
    (phaseRead low b next s).rw = s.rw := rfl
@[simp] theorem phaseRead_len (low : Bool) (b : Byte) (next : Npd) (s : State) :
    (phaseRead low b next s).len = s.len := rfl
@[simp] theorem phaseRead_word (low : Bool) (b : Byte) (next : Npd) (s : State) :
    (phaseRead low b next s).word = encWord s false true false 0xF#4 := rfl
@[simp] theorem phaseRead_rdHi (low : Bool) (b : Byte) (next : Npd) (s : State) :
    (phaseRead low b next s).rdHi = if low then s.rdHi else b := rfl
@[simp] theorem phaseRead_rdLo (low : Bool) (b : Byte) (next : Npd) (s : State) :
    (phaseRead low b next s).rdLo = if low then b else s.rdLo := rfl
@[simp] theorem phaseRead_status (low : Bool) (b : Byte) (next : Npd) (s : State) :
    (phaseRead low b next s).status = s.status := rfl
@[simp] theorem phaseRead_rdata (low : Bool) (b : Byte) (next : Npd) (s : State) :
    (phaseRead low b next s).rdata = s.rdata := rfl
@[simp] theorem phaseRead_cols (low : Bool) (b : Byte) (next : Npd) (s : State) :
    (phaseRead low b next s).cols = s.cols := rfl
@[simp] theorem phaseRead_rows (low : Bool) (b : Byte) (next : Npd) (s : State) :
    (phaseRead low b next s).rows = s.rows := rfl
@[simp] theorem phaseRead_font (low : Bool) (b : Byte) (next : Npd) (s : State) :
    (phaseRead low b next s).font = s.font := rfl
@[simp] theorem phaseRead_dispOn (low : Bool) (b : Byte) (next : Npd) (s : State) :
    (phaseRead low b next s).dispOn = s.dispOn := rfl
@[simp] theorem phaseRead_curOn (low : Bool) (b : Byte) (next : Npd) (s : State) :
    (phaseRead low b next s).curOn = s.curOn := rfl
@[simp] theorem phaseRead_blinkOn (low : Bool) (b : Byte) (next : Npd) (s : State) :
    (phaseRead low b next s).blinkOn = s.blinkOn := rfl
@[simp] theorem phaseRead_entryLtr (low : Bool) (b : Byte) (next : Npd) (s : State) :
    (phaseRead low b next s).entryLtr = s.entryLtr := rfl
@[simp] theorem phaseRead_autoscroll (low : Bool) (b : Byte) (next : Npd) (s : State) :
    (phaseRead low b next s).autoscroll = s.autoscroll := rfl
@[simp] theorem phaseRead_blOn (low : Bool) (b : Byte) (next : Npd) (s : State) :
    (phaseRead low b next s).blOn = s.blOn := rfl
@[simp] theorem phaseRead_initOk (low : Bool) (b : Byte) (next : Npd) (s : State) :
    (phaseRead low b next s).initOk = s.initOk := rfl
@[simp] theorem phaseRead_top (low : Bool) (b : Byte) (next : Npd) (s : State) :
    (phaseRead low b next s).top = s.top := rfl
@[simp] theorem phaseRead_seq (low : Bool) (b : Byte) (next : Npd) (s : State) :
    (phaseRead low b next s).seq = s.seq := rfl
@[simp] theorem phaseRead_npd (low : Bool) (b : Byte) (next : Npd) (s : State) :
    (phaseRead low b next s).npd = next := rfl
@[simp] theorem phaseRead_rspValid (low : Bool) (b : Byte) (next : Npd) (s : State) :
    (phaseRead low b next s).rspValid = s.rspValid := rfl
@[simp] theorem phaseRead_req (low : Bool) (b : Byte) (next : Npd) (s : State) :
    (phaseRead low b next s).req = .none := rfl
@[simp] theorem phaseRead_bus (low : Bool) (b : Byte) (next : Npd) (s : State) :
    (phaseRead low b next s).bus = Memory.write s.bus s.devAddr.toNat (encWord s false true false 0xF#4) := rfl
@[simp] theorem phaseRead_ctl (low : Bool) (b : Byte) (next : Npd) (s : State) :
    (phaseRead low b next s).ctl = s.ctl.latch := rfl
@[simp] theorem phaseRead_hostIn (low : Bool) (b : Byte) (next : Npd) (s : State) :
    (phaseRead low b next s).hostIn = s.hostIn := rfl
@[simp] theorem phaseRead_tpIn (low : Bool) (b : Byte) (next : Npd) (s : State) :
    (phaseRead low b next s).tpIn = s.tpIn.drop 3 := rfl
@[simp] theorem phaseRead_dlIn (low : Bool) (b : Byte) (next : Npd) (s : State) :
    (phaseRead low b next s).dlIn = s.dlIn.drop 2 := rfl
@[simp] theorem phaseRead_trace (low : Bool) (b : Byte) (next : Npd) (s : State) :
    (phaseRead low b next s).trace = s.trace ++ readPhaseEvents s := rfl
@[simp] theorem phaseRead_layerOut (low : Bool) (b : Byte) (next : Npd) (s : State) :
    (phaseRead low b next s).layerOut = s.layerOut := rfl
@[simp] theorem phaseRead_free (low : Bool) (b : Byte) (next : Npd) (s : State) :
    (phaseRead low b next s).free = s.free + (3 - s.tpIn.length) := rfl
@[simp] theorem encWord_phaseRead (low : Bool) (b : Byte) (next : Npd) (s : State) (rs' rw' e : Bool) (n' : Nibble) :
    encWord (phaseRead low b next s) rs' rw' e n' = encWord s rs' rw' e n' := rfl

theorem enableFalls_high (s : State) (h : PinMap.IsPerm s.pm) (w : Byte) (rs rw : Bool)
    (n : Nibble) : enableFalls s.pm w (encWord s rs rw true n) = false := by
  rw [enableFalls, atSlot_encWord_enable s h]; simp

theorem enableFalls_low (s : State) (h : PinMap.IsPerm s.pm) (rs rw : Bool) (n : Nibble) :
    enableFalls s.pm (encWord s rs rw true n) (encWord s rs rw false n) = true := by
  rw [enableFalls, atSlot_encWord_enable s h, atSlot_encWord_enable s h]; rfl

@[simp] theorem Controller.latch_latch (c : Controller) : c.latch.latch = c := by cases c <;> rfl

/-- The driver is in an ASSEMBLE row for the nibble `n`. -/
abbrev Assembles (s : State) (n : Nibble) : Prop :=
  (s.npd = .assembleHigh ∧ n = highNibble s.val) ∨ (s.npd = .assembleLow ∧ n = lowNibble s.val)

theorem assemble_row {s : State} (m : Nat) {n : Nibble} (hn : Assembles s n)
    (h : (transportAnswer s).isOk = true) (hd : DelaysEnd s) :
    npdRun (m + 1) s =
      npdRun m (npdAdvance (wrote s.prm.tPulse (putWord (encWord s s.rs s.rw true n) s))) := by
  rcases hn with ⟨hn, rfl⟩ | ⟨hn, rfl⟩ <;>
    rw [npdRun_step m (by simp [hn]) (npdStep_write (by simp [Npd.Writes, hn]) h hd)] <;>
    simp only [rowWord, npdWait, hn]

theorem pulse_row {s : State} (m : Nat) (hn : s.npd = .pulseHigh ∨ s.npd = .pulseLow)
    (h : (transportAnswer s).isOk = true) (hd : DelaysEnd s) :
    npdRun (m + 1) s =
      npdRun m (npdAdvance (wrote s.prm.tSettle (putWord (s.word &&& ~~~(eMask s)) s))) := by
  rcases hn with hn | hn <;>
    rw [npdRun_step m (by simp [hn]) (npdStep_write (by simp [Npd.Writes, hn]) h hd)] <;>
    simp only [rowWord, npdWait, hn]

theorem sample_row {s : State} (m : Nat) {b : Byte} (hn : s.npd = .sampleHigh ∨ s.npd = .sampleLow)
    (h : transportAnswer s = .ok b) :
    npdRun (m + 1) s = npdRun m (npdAdvance (latchRead b (requestDone (issueRead s)))) := by
  rw [npdRun_step m (by rcases hn with hn | hn <;> simp [hn]) (npdStep_read hn h)]

theorem DelaysEnd.tail {s t : State} (h : DelaysEnd s) (e : t.dlIn = s.dlIn.tail) : DelaysEnd t :=
  fun a ha => h a (List.mem_of_mem_tail (e ▸ ha))

theorem DelaysEnd.drop {s t : State} (n : Nat) (h : DelaysEnd s) (e : t.dlIn = s.dlIn.drop n) :
    DelaysEnd t := fun a ha => h a (List.mem_of_mem_drop (e ▸ ha))

/-- The answers a state sees after `k` more calls. -/
theorem answer_later {s t : State} (k i : Nat) (h : t.tpIn = s.tpIn.drop k)
    (hf : t.free = s.free + (k - s.tpIn.length)) : answer i t = answer (k + i) s := by
  unfold answer
  apply transportAnswer_congr <;> simp [takeAnswers_eq, h, hf]
  omega

theorem CallsSucceed.later {s t : State} {n : Nat} (k : Nat) (hk : CallsSucceed (k + n) s)
    (h : t.tpIn = s.tpIn.drop k) (hf : t.free = s.free + (k - s.tpIn.length)) : CallsSucceed n t :=
  fun i hi => by rw [answer_later k i h hf]; exact hk (k + i) (by omega)

/-- The word of a PULSE row after an ASSEMBLE row of the same phase. -/
theorem cleared_word {s t : State} (hp : PinMap.IsPerm s.pm) (h1 : t.pm = s.pm) {rs rw : Bool} {n : Nibble}
    (h2 : t.word = encWord s rs rw true n) : t.word &&& ~~~(eMask t) = encWord s rs rw false n := by
  rw [h2, eMask_congr h1, encWord_clear_enable s hp]

theorem write_phase {s : State} (m : Nat) (hp : PinMap.IsPerm s.pm) (hm : Memory.wf s.bus = true)
    (hrw : s.rw = false) (h0 : (transportAnswer s).isOk = true) (h1 : (answer 1 s).isOk = true)
    (hd : DelaysEnd s) {n : Nibble} (hn : Assembles s n) :
    npdRun (m + 2) s =
      npdRun m (phaseWritten n (if s.npd = .assembleHigh ∧ s.len = true then .assembleLow else .done) s) := by
  rw [assemble_row (m + 1) hn h0 hd, pulse_row m
    (by rcases hn with ⟨h, -⟩ | ⟨h, -⟩ <;> cases hs : s.prm.rdSample <;> simp [h, hs, hrw, npdNext])
    (by rw [transportAnswer_congr (t := takeAnswer s) (by simp) (by simp)]; exact h1)
    (hd.tail (by simp)),
    cleared_word (s := s) (rs := s.rs) (rw := s.rw) (n := n) hp (by simp) (by simp)]
  refine congrArg (npdRun m) ?_
  apply State.ext <;> simp [enableFalls_high s hp, enableFalls_low s hp, hm, nibbleEvents, hrw, ← List.drop_one]
  case npd => rcases hn with ⟨h, -⟩ | ⟨h, -⟩ <;> cases hs : s.prm.rdSample <;> simp [h, npdNext]
  case free => omega

/-- A single nibble written, both calls answered ok (R179). -/
theorem xfer_nibble {s : State} (hp : PinMap.IsPerm s.pm) (hm : Memory.wf s.bus = true)
    (hk : CallsSucceed 2 s) (hd : DelaysEnd s) (rs : Bool) (v : Byte) :
    xfer rs false v false s =
      .going (phaseWritten (highNibble v) .done (xferStart rs false v false s)) := by
  unfold xfer
  have h1 : (answer 1 (xferStart rs false v false s)).isOk = true :=
    (answer_congr (s := xferStart rs false v false s) (t := s) 1 rfl rfl) ▸ hk 1 (by omega)
  rw [write_phase (s := xferStart rs false v false s) 4 hp hm rfl (hk 0 (by omega)) h1 hd
    (.inl ⟨rfl, rfl⟩), npdRun_done 4 rfl]
  rfl

/-- A full byte written, all four calls answered ok, high nibble first (R68, R179). -/
theorem xfer_byte {s : State} (hp : PinMap.IsPerm s.pm) (hm : Memory.wf s.bus = true)
    (hk : CallsSucceed 4 s) (hd : DelaysEnd s) (rs : Bool) (v : Byte) :
    xfer rs false v true s =
      .going (phaseWritten (lowNibble v) .done (phaseWritten (highNibble v) .assembleLow
        (xferStart rs false v true s))) := by
  unfold xfer
  have hk' : CallsSucceed 2 (phaseWritten (highNibble v) .assembleLow (xferStart rs false v true s)) :=
    CallsSucceed.later 2 hk rfl rfl
  have h1 : (answer 1 (xferStart rs false v true s)).isOk = true :=
    (answer_congr (s := xferStart rs false v true s) (t := s) 1 rfl rfl) ▸ hk 1 (by omega)
  rw [write_phase (s := xferStart rs false v true s) 4 hp hm rfl (hk 0 (by omega)) h1 hd
    (.inl ⟨rfl, rfl⟩)]
  refine (write_phase (s := phaseWritten (highNibble v) .assembleLow (xferStart rs false v true s))
    2 hp (Memory.wf_write _ _ hm) rfl (hk' 0 (by omega)) (hk' 1 (by omega)) (hd.drop 2 rfl)
    (.inr ⟨rfl, rfl⟩)).trans ?_
  rw [npdRun_done 2 rfl]
  rfl

/-- The driver is in the first row of a phase of a read transfer. -/
abbrev ReadsPhase (s : State) (low : Bool) : Prop :=
  s.rs = false ∧ s.rw = true ∧ s.val = 0xFF#8 ∧ s.npd = if low then .assembleLow else .assembleHigh

/-- One phase of a read transfer, at either sample point (R172, R184). -/
theorem read_phase {s : State} (m : Nat) (hp : PinMap.IsPerm s.pm) (hm : Memory.wf s.bus = true)
    {low : Bool} (hr : ReadsPhase s low) (h : CallsSucceed 3 s) (hd : DelaysEnd s) :
    npdRun (m + 3) s = npdRun m (phaseRead low (answer (highReadCall s.prm) s).byte
      (if low = false ∧ s.len = true then .assembleLow else .done) s) := by
  obtain ⟨hrs, hrw, hv, hn⟩ := hr
  have hA : Assembles s 0xF#4 := by
    cases low <;> simp [Assembles, hn, hv] <;> decide
  have h0 := h 0 (by omega)
  have h1 := h 1 (by omega)
  have h2 := h 2 (by omega)
  rw [assemble_row (m + 2) hA h0 hd]
  cases hs : s.prm.rdSample
  · obtain ⟨b, hb⟩ : ∃ b, answer 1 s = .ok b := by
      cases ha : answer 1 s <;> simp_all [TpAnswer.isOk]
    rw [sample_row (b := b) (m + 1) (by cases low <;> simp [hn, hs, hrw, npdNext])
        (by rw [transportAnswer_congr (t := takeAnswer s) (by simp) (by simp)]; exact hb),
      pulse_row m (by cases low <;> simp [hn, hs, hrw, npdNext])
        (by rw [transportAnswer_congr (t := takeAnswers 2 s) (by simp [takeAnswers]) (by simp [takeAnswers])]; exact h2)
        (hd.tail (by simp)),
      cleared_word (s := s) (rs := s.rs) (rw := s.rw) (n := 0xF#4) hp (by simp) (by simp)]
    refine congrArg (npdRun m) ?_
    apply State.ext <;> simp [enableFalls_high s hp, enableFalls_low s hp, hm, readPhaseEvents, hrs, hrw, hs,
      ← List.drop_one, highReadCall, hb, TpAnswer.byte]
    case npd => cases low <;> simp [hn, npdNext]
    case rdHi => cases low <;> simp [hn, npdNext]
    case rdLo => cases low <;> simp [hn, npdNext]
    case free => omega
  · obtain ⟨b, hb⟩ : ∃ b, answer 2 s = .ok b := by
      cases ha : answer 2 s <;> simp_all [TpAnswer.isOk]
    rw [pulse_row (m + 1) (by cases low <;> simp [hn, hs, hrw, npdNext])
        (by rw [transportAnswer_congr (t := takeAnswer s) (by simp) (by simp)]; exact h1)
        (hd.tail (by simp)),
      cleared_word (s := s) (rs := s.rs) (rw := s.rw) (n := 0xF#4) hp (by simp) (by simp),
      sample_row (b := b) m (by cases low <;> simp [hn, hs, hrw, npdNext])
        (by rw [transportAnswer_congr (t := takeAnswers 2 s) (by simp [takeAnswers]) (by simp [takeAnswers])]; exact hb)]
    refine congrArg (npdRun m) ?_
    apply State.ext <;> simp [enableFalls_high s hp, enableFalls_low s hp, hm, readPhaseEvents, hrs, hrw, hs,
      ← List.drop_one, highReadCall, hb, TpAnswer.byte]
    case npd => cases low <;> simp [hn, npdNext]
    case rdHi => cases low <;> simp [hn, npdNext]
    case rdLo => cases low <;> simp [hn, npdNext]
    case free => omega

/-- A read transfer of one phase (R235). -/
theorem readXfer_one {s : State} (hp : PinMap.IsPerm s.pm) (hm : Memory.wf s.bus = true)
    (hk : CallsSucceed 3 s) (hd : DelaysEnd s) :
    readXfer false s =
      .going (phaseRead false (highRead s) .done (xferStart false true 0xFF#8 false s)) := by
  have h3 : CallsSucceed 3 (xferStart false true 0xFF#8 false s) := hk.later 0 rfl (by simp)
  unfold readXfer xfer
  refine (read_phase (s := xferStart false true 0xFF#8 false s) 3 hp hm (low := false)
    ⟨rfl, rfl, rfl, rfl⟩ h3 hd).trans ?_
  rw [answer_congr (s := xferStart false true 0xFF#8 false s) (t := s) _ rfl rfl]
  exact npdRun_done 3 rfl

/-- A read transfer of two phases (R231). -/
theorem readXfer_two {s : State} (hp : PinMap.IsPerm s.pm) (hm : Memory.wf s.bus = true)
    (hk : CallsSucceed 6 s) (hd : DelaysEnd s) :
    readXfer true s =
      .going (phaseRead true (lowRead s) .done (phaseRead false (highRead s) .assembleLow
        (xferStart false true 0xFF#8 true s))) := by
  have h3 : CallsSucceed 3 (xferStart false true 0xFF#8 true s) :=
    CallsSucceed.later (s := s) 0 (fun i hi => hk i (by omega)) rfl (by simp)
  have h6 : CallsSucceed 3 (phaseRead false (highRead s) .assembleLow (xferStart false true 0xFF#8 true s)) :=
    hk.later 3 rfl rfl
  unfold readXfer xfer
  refine (read_phase (s := xferStart false true 0xFF#8 true s) 3 hp hm (low := false)
    ⟨rfl, rfl, rfl, rfl⟩ h3 hd).trans ?_
  rw [answer_congr (s := xferStart false true 0xFF#8 true s) (t := s) _ rfl rfl]
  refine (read_phase (s := phaseRead false (highRead s) .assembleLow (xferStart false true 0xFF#8 true s)) 0 hp
    (Memory.wf_write _ _ hm) (low := true) ⟨rfl, rfl, rfl, rfl⟩ h6 (hd.drop 2 rfl)).trans ?_
  rw [answer_later (s := s) 3 _ rfl rfl, npdRun_done 0 rfl]
  have : 3 + highReadCall s.prm = lowReadCall s.prm := by
    unfold highReadCall lowReadCall; cases s.prm.rdSample <;> rfl
  rw [lowRead, ← this]
  rfl

/-- `CMD` and `DATA` after the map check, every call answered ok. -/
theorem byteBody_ok {s : State} (hp : PinMap.IsPerm s.pm) (hm : Memory.wf s.bus = true)
    (hk : CallsSucceed 4 s) (hd : DelaysEnd s) (rs : Bool) :
    byteBody rs s = respond .ok 0#8 (phaseWritten (lowNibble s.a0) .done
      (phaseWritten (highNibble s.a0) .assembleLow (xferStart rs false s.a0 true s))) := by
  rw [byteBody, xfer_byte hp hm hk hd]; rfl

theorem rdbfBody_full {s : State} (hp : PinMap.IsPerm s.pm) (hm : Memory.wf s.bus = true)
    (hk : CallsSucceed 6 s) (hd : DelaysEnd s) (h : s.prm.bfFullCycle = true) :
    rdbfBody s = respondBusyFlag (phaseRead true (lowRead s) .done
      (phaseRead false (highRead s) .assembleLow (xferStart false true 0xFF#8 true s))) := by
  rw [rdbfBody, h, readXfer_two hp hm hk hd]; rfl

theorem rdbfBody_short {s : State} (hp : PinMap.IsPerm s.pm) (hm : Memory.wf s.bus = true)
    (hk : CallsSucceed 3 s) (hd : DelaysEnd s) (h : s.prm.bfFullCycle = false) :
    rdbfBody s = respondBusyFlag (phaseRead false (highRead s) .done
      (xferStart false true 0xFF#8 false s)) := by
  rw [rdbfBody, h, readXfer_one hp hm hk hd]; rfl

theorem rdacBody_ok {s : State} (hp : PinMap.IsPerm s.pm) (hm : Memory.wf s.bus = true)
    (hk : CallsSucceed 6 s) (hd : DelaysEnd s) :
    rdacBody s = respondAddressCounter (phaseRead true (lowRead s) .done
      (phaseRead false (highRead s) .assembleLow (xferStart false true 0xFF#8 true s))) := by
  rw [rdacBody, readXfer_two hp hm hk hd]; rfl

/-! ### What the events and the reads depend on -/

theorem nibbleEvents_congr {s t : State} (h0 : s.prm = t.prm) (h1 : s.pm = t.pm) (h2 : s.blOn = t.blOn)
    (h3 : s.blPol = t.blPol) (rs : Bool) (n : Nibble) : nibbleEvents s rs n = nibbleEvents t rs n := by
  simp only [nibbleEvents, h0, encWord_congr h1 h2 h3]

theorem byteEvents_congr {s t : State} (h0 : s.prm = t.prm) (h1 : s.pm = t.pm) (h2 : s.blOn = t.blOn)
    (h3 : s.blPol = t.blPol) (rs : Bool) (v : Byte) : byteEvents s rs v = byteEvents t rs v := by
  simp only [byteEvents, nibbleEvents_congr h0 h1 h2 h3]

theorem readPhaseEvents_congr {s t : State} (h0 : s.prm = t.prm) (h1 : s.pm = t.pm)
    (h2 : s.blOn = t.blOn) (h3 : s.blPol = t.blPol) : readPhaseEvents s = readPhaseEvents t := by
  simp only [readPhaseEvents, h0, encWord_congr h1 h2 h3]

theorem highRead_congr {s t : State} (h0 : s.prm = t.prm) (h1 : s.tpIn = t.tpIn) (h2 : s.free = t.free) :
    highRead s = highRead t := by rw [highRead, highRead, h0, answer_congr _ h1 h2]

theorem lowRead_congr {s t : State} (h0 : s.prm = t.prm) (h1 : s.tpIn = t.tpIn) (h2 : s.free = t.free) :
    lowRead s = lowRead t := by rw [lowRead, lowRead, h0, answer_congr _ h1 h2]

end Sys2Proof.Machine
end

