-- ==== Sys2Proof/Tests/Slice0.lean ====
section
/-! SUPPORT. The model's own tests, from 95_test_vectors.md and the tables of spec/, and one named witness
for the hypotheses of each statement. -/

namespace Sys2Proof.Tests

open Sys2Proof.Machine Sys2Proof.Machine.Expect

/-! ### Helpers -/

/-- The reset state (backpack map, ACTIVE-HIGH, backlight off) with a script of transport answers. -/
def scripted (l : List TpAnswer) : State := { State.reset with tpIn := l }

/-- `n` answers `ok`. -/
def oks (n : Nat) : List TpAnswer := List.replicate n (.ok 0x4E#8)

/-- The same with the backlight on, as most vectors have it. -/
def lit (l : List TpAnswer) : State := { scripted l with blOn := true }

/-- A property of the next state. -/
def thenNext (o : Host.Outcome State Fault Refusal) (p : State → Bool) : Bool :=
  match o with
  | .next t => p t
  | .fault _ => false
  | .refused _ => false

/-- An invalid map (vector M5). -/
def unusable : State := { State.reset with mapValid := false }

/-! ### Decoding: one word of every constructor, written out from R95, R96, R100 and R272 to R279 -/

theorem test_decode_init : decodeTableWord 32 0b0001_00010000_00000010_00000000 = some (.init 16#8 2#8 0#8) := by decide
theorem test_decode_cmd : decodeTableWord 32 0b0010_00000001_00000000_00000000 = some (.cmd 1#8 0#8 0#8) := by decide
theorem test_decode_data : decodeTableWord 32 0b0011_01000001_11111111_11111111 = some (.data 0x41#8 0xFF#8 0xFF#8) := by decide
theorem test_decode_backlight : decodeTableWord 32 0b0100_00000001_00000000_00000000 = some (.backlight 1#8 0#8 0#8) := by decide
theorem test_decode_rdbf : decodeTableWord 32 0b0101_00000000_00000000_00000000 = some (.rdbf 0#8 0#8 0#8) := by decide
theorem test_decode_rdac : decodeTableWord 32 0b0110_00000000_00000000_00000000 = some (.rdac 0#8 0#8 0#8) := by decide
theorem test_decode_kProbe : decode (.sequencer false 0b0011_0000#8) = .ok (.kProbe 0#4) := by decide
theorem test_decode_kSwitch4 : decode (.sequencer false 0b0010_0000#8) = .ok (.kSwitch4 0#4) := by decide
theorem test_decode_kFuncset : decode (.sequencer true 0b0010_1000#8) = .ok (.kFuncset true false) := by decide
theorem test_decode_kDisplayOff : decode (.sequencer true 0b0000_1000#8) = .ok .kDisplayOff := by decide
theorem test_decode_kClear : decode (.sequencer true 0b0000_0001#8) = .ok .kClear := by decide
theorem test_decode_kEntryLtr : decode (.sequencer true 0b0000_0110#8) = .ok .kEntryLtr := by decide
theorem test_decode_kDisplayOn : decode (.sequencer true 0b0000_1100#8) = .ok .kDisplayOn := by decide
theorem test_decode_clear : decode (.layer 0b0000_0001#8) = .ok .clear := by decide
theorem test_decode_home : decode (.layer 0b0000_0010#8) = .ok .home := by decide
theorem test_decode_setddram : decode (.layer 0b1100_0101#8) = .ok (.setddram 0x45#7) := by decide
theorem test_decode_displayctl : decode (.layer 0b0000_1011#8) = .ok (.displayctl false true true) := by decide
theorem test_decode_entrymode : decode (.layer 0b0000_0101#8) = .ok (.entrymode false true) := by decide
theorem test_decode_shift : decode (.layer 0b0001_1100#8) = .ok (.shift true) := by decide
theorem test_decode_setcgram : decode (.layer 0b0101_0000#8) = .ok (.setcgram 0x10#6) := by decide

/-- Reserved opcodes and bytes of no row (R98, R100). -/
theorem test_decode_rejects :
    decode (.port 0x0000000#28) = .error (.reservedOpcode 0#4) ∧
    decode (.port 0x7000000#28) = .error (.reservedOpcode 7#4) ∧
    decode (.port 0xFFFFFFF#28) = .error (.reservedOpcode 15#4) ∧
    decode (.sequencer true 0x0E#8) = .error (.noRow 0x0E#8) ∧
    decode (.layer 0x28#8) = .error (.noRow 0x28#8) ∧ decode (.layer 0#8) = .error (.noRow 0#8) := by decide

/-! ### WellFormed: an ill-formed term for each check -/

theorem test_wf_refuses_two_lines_with_large_font :
    (Instr.kFuncset true true).wf = false ∧ (Instr.kFuncset true false).wf = true := by decide
theorem test_wf_refuses_cgram_inside_a_glyph :
    (Instr.setcgram 1#6).wf = false ∧ (Instr.setcgram 4#6).wf = false ∧ (Instr.setcgram 8#6).wf = true := by decide

/-! ### The instructions, one step each -/

set_option maxRecDepth 10000 in
/-- P1's INIT (I1): the end state. -/
theorem test_init_end :
    thenNext (exec (.init 16#8 2#8 0#8) (scripted (oks 28))) (fun t =>
      t.initOk && t.seq == 10#4 && t.cols == 16#8 && t.rows == 2#8 && !t.font && t.dispOn && !t.curOn &&
      t.entryLtr && t.word == 0xC0#8 && t.trace.length == 62 && rspWord t == 0#10) = true := by decide
/-- I13: the third write fails. -/
theorem test_init_fails :
    thenNext (exec (.init 16#8 2#8 0#8) (scripted (oks 2 ++ [.fail]))) (fun t =>
      t.seq == 2#4 && !t.initOk && t.trace == [Event.delay 45000#16, Event.write 0x34#8, Event.delay 1#16, Event.write 0x30#8,
        Event.delay 50#16, Event.delay 4500#16, Event.write 0x34#8, .rsp .transportError 0#8]) = true := by decide
/-- X3. -/
theorem test_cmd :
    thenNext (exec (.cmd 1#8 0#8 0#8) (lit (oks 4))) (fun t =>
      t.trace == [Event.write 0x0C#8, Event.delay 1#16, Event.write 0x08#8, Event.delay 50#16, Event.write 0x1C#8, Event.delay 1#16,
        Event.write 0x18#8, Event.delay 50#16, .rsp .ok 0#8]) = true := by decide
/-- X1, with the ignored argument bits of R96 set. -/
theorem test_data :
    thenNext (exec (.data 0x41#8 0xFF#8 0xFF#8) (lit (oks 4))) (fun t =>
      t.trace == [Event.write 0x4D#8, Event.delay 1#16, Event.write 0x49#8, Event.delay 50#16, Event.write 0x1D#8, Event.delay 1#16,
        Event.write 0x19#8, Event.delay 50#16, .rsp .ok 0#8] && t.word == 0x19#8) = true := by decide
/-- X13: the third write fails, between the two falling edges. -/
theorem test_data_fails :
    thenNext (exec (.data 0x41#8 0#8 0#8) { lit (oks 2 ++ [.fail]) with ctl := .expectsHigh }) (fun t =>
      t.trace == [Event.write 0x4D#8, Event.delay 1#16, Event.write 0x49#8, Event.delay 50#16, Event.write 0x1D#8,
        .rsp .transportError 0#8] && t.npd == .done && t.word == 0x1D#8 && rspWord t == 0x200#10) = true := by decide
/-- L14: only bit 0 of the argument is read. -/
theorem test_backlight :
    thenNext (exec (.backlight 0xFE#8 0#8 0#8) (lit (oks 1))) (fun t =>
      t.trace == [Event.write 0#8, Event.delay 50#16, .rsp .ok 0#8] && !t.blOn) = true := by decide
/-- L15: the write fails, the request stands. -/
theorem test_backlight_fails :
    thenNext (exec (.backlight 1#8 0#8 0#8) (scripted [.fail])) (fun t =>
      t.trace == [Event.write 0x08#8, .rsp .transportError 0#8] && t.blOn) = true := by decide
/-- B3: the flag is the first word's. -/
theorem test_rdbf :
    thenNext (exec (.rdbf 0#8 0#8 0#8) (lit [.ok 0#8, .ok 0xFE#8, .ok 0#8, .ok 0#8, .ok 0x0E#8, .ok 0#8]))
      (fun t => rspWord t == 0x001#10 && t.trace == [Event.write 0xFE#8, Event.delay 1#16, .read, Event.write 0xFA#8, Event.delay 50#16,
        Event.write 0xFE#8, Event.delay 1#16, .read, Event.write 0xFA#8, Event.delay 50#16, .rsp .ok 1#8]) = true := by decide
/-- BF5: the second read fails. -/
theorem test_rdbf_fails :
    thenNext (exec (.rdbf 0#8 0#8 0#8) (lit (oks 4 ++ [.fail]))) (fun t =>
      rspWord t == 0x200#10 && t.rdHi == 0x4E#8 && t.rdLo == 0#8) = true := by decide
/-- A1. -/
theorem test_rdac :
    thenNext (exec (.rdac 0#8 0#8 0#8) (lit [.ok 0#8, .ok 0x4E#8, .ok 0#8, .ok 0#8, .ok 0x5E#8, .ok 0#8]))
      (fun t => rspWord t == 0x045#10 && t.rdHi == 0x4E#8 && t.rdLo == 0x5E#8) = true := by decide
/-- The other sample point (section 6, "The alternative sample point"). -/
theorem test_rdac_after_pulse :
    thenNext (exec (.rdac 0#8 0#8 0#8) { lit [.ok 0#8, .ok 0#8, .ok 0x4E#8, .ok 0#8, .ok 0#8, .ok 0x5E#8] with
        prm := { Config.hardware with rdSample := .afterPulse } })
      (fun t => rspWord t == 0x045#10 && t.trace == [Event.write 0xFE#8, Event.delay 1#16, Event.write 0xFA#8, Event.delay 50#16, .read,
        Event.write 0xFE#8, Event.delay 1#16, Event.write 0xFA#8, Event.delay 50#16, .read, .rsp .ok 0x45#8]) = true := by decide
/-- Step 1 of R204. -/
theorem test_kProbe :
    thenNext (exec (.kProbe 0#4) { scripted (oks 2) with seq := 1#4 }) (fun t =>
      t.trace == [Event.write 0x34#8, Event.delay 1#16, Event.write 0x30#8, Event.delay 50#16, Event.delay 4500#16] && t.seq == 1#4) = true := by decide
/-- Step 4 of R204. -/
theorem test_kSwitch4 :
    thenNext (exec (.kSwitch4 0#4) (scripted (oks 2))) (fun t =>
      t.trace == [Event.write 0x24#8, Event.delay 1#16, Event.write 0x20#8, Event.delay 50#16]) = true := by decide
/-- Step 5 of R204: writes 9 to 12 of I3. -/
theorem test_kFuncset :
    thenNext (exec (.kFuncset false true) (scripted (oks 4))) (fun t =>
      writtenWords t.trace == [0x24#8, 0x20#8, 0x44#8, 0x40#8]) = true := by decide
/-- Steps 6 to 9 of R204. -/
theorem test_kDisplayOff :
    thenNext (exec .kDisplayOff (scripted (oks 4))) (fun t => writtenWords t.trace == [0x04#8, 0#8, 0x84#8, 0x80#8]) = true := by decide
theorem test_kClear :
    thenNext (exec .kClear (scripted (oks 4))) (fun t => t.trace == [Event.write 0x04#8, Event.delay 1#16, Event.write 0#8, Event.delay 50#16,
      Event.write 0x14#8, Event.delay 1#16, Event.write 0x10#8, Event.delay 50#16, Event.delay 2000#16]) = true := by decide
theorem test_kEntryLtr :
    thenNext (exec .kEntryLtr (scripted (oks 4))) (fun t => writtenWords t.trace == [0x04#8, 0#8, 0x64#8, 0x60#8]) = true := by decide
theorem test_kDisplayOn :
    thenNext (exec .kDisplayOn (scripted (oks 4))) (fun t => writtenWords t.trace == [0x04#8, 0#8, 0xC4#8, 0xC0#8]) = true := by decide
/-- Q1, Q2. -/
theorem test_clear :
    thenNext (exec .clear (scripted (oks 4))) (fun t => t.layerOut == [LayerEvent.issue 0x2010000#28, .wait 2000]) = true := by decide
theorem test_home :
    thenNext (exec .home (scripted (oks 4))) (fun t => t.layerOut == [LayerEvent.issue 0x2020000#28, .wait 2000]) = true := by decide
/-- Q9: row 3 of a 20x4 display. -/
theorem test_setddram :
    thenNext (runCall (.setCursor 0#8 3#8) { scripted (oks 4) with cols := 20#8, rows := 4#8 }) (fun t =>
      t.layerOut == [LayerEvent.issue 0x2D40000#28]) = true := by decide
/-- Q14: the flags not asked for keep their values. -/
theorem test_displayctl :
    thenNext (runCall (.display false) { scripted (oks 4) with dispOn := true, curOn := true, blinkOn := true })
      (fun t => t.layerOut == [LayerEvent.issue 0x20B0000#28] && !t.dispOn && t.curOn && t.blinkOn) = true := by decide
/-- Q16. -/
theorem test_entrymode :
    thenNext (runCall (.autoscroll true) (scripted (oks 4))) (fun t =>
      t.layerOut == [LayerEvent.issue 0x2050000#28] && t.autoscroll && !t.entryLtr) = true := by decide
/-- Q19. -/
theorem test_shift :
    thenNext (runCall (.scroll true) (scripted (oks 4))) (fun t => t.layerOut == [LayerEvent.issue 0x21C0000#28]) = true := by decide
/-- Q21: a slot clamped to 7, one DATA for each pattern byte. -/
theorem test_setcgram :
    thenNext (runCall (.loadGlyph 9#8 [1#8, 2#8, 3#8, 4#8, 5#8, 6#8, 7#8, 8#8]) (scripted (oks 36))) (fun t =>
      t.layerOut == [LayerEvent.issue 0x2780000#28, .issue 0x3010000#28, .issue 0x3020000#28, .issue 0x3030000#28,
        .issue 0x3040000#28, .issue 0x3050000#28, .issue 0x3060000#28, .issue 0x3070000#28, .issue 0x3080000#28]) = true := by decide
/-- R279: 10 bytes while INIT has forced the font to 5x8, which the rule does not cover: the call runs. -/
theorem test_glyph_of_another_length :
    ∃ t, runCall (.loadGlyph 9#8 [1#8, 2#8, 3#8, 4#8, 5#8, 6#8, 7#8, 8#8, 9#8, 10#8]) (scripted (oks 4)) = .next t :=
  ⟨_, rfl⟩
/-- E7, E11: the map check comes before the opcode check. -/
theorem test_reserved :
    thenNext (fetchStep (.port 0#28) unusable) (fun t => rspWord t == 0x100#10) = true ∧
    thenNext (fetchStep (.port 0x8123456#28) State.reset) (fun t => rspWord t == 0x300#10) = true := by decide
/-- M2, M5, M6, M9. -/
theorem test_maps :
    (buildMap 0x43210567#32).bad = false ∧ (buildMap 0x43210567#32).pm = #v[3, 4, 5, 6, 7, 2, 1, 0] ∧
    (buildMap 0x93210567#32).bad = true ∧ (buildMap 0x43210577#32).bad = true ∧
    (buildMap 0x76543218#32).bad = true := by decide
/-- Section 3: `Phys` and `Log` on the backpack map. -/
theorem test_relocation :
    phys State.reset.pm 0xA8#8 = 0x45#8 ∧ log State.reset.pm 0x1E#8 = 0x63#8 := by decide
/-- The reset state's memory is canonical, and so is what a write makes of it. -/
theorem test_memory_canonical :
    Memory.wf State.reset.bus = true ∧ Memory.write [(3, 1#8)] 3 0xFF#8 = [] ∧
    Memory.write [(3, 1#8)] 2 7#8 = [(2, 7#8), (3, 1#8)] := by decide
/-- A fetched table word runs as the first instruction after reset. -/
theorem test_first_step :
    thenNext (step ((scripted (oks 4)).withFetchWord 32 0x2010000)) (fun t => t.a0 == 1#8 && t.op == 2#4) = true ∧
    thenNext (step ((scripted (oks 4)).withFetchWord 8 0x8F)) (fun t => t.a0 == 0x8F#8 && t.op == 2#4) = true := by decide

/-- R7's constraints hold of this hardware's values. -/
theorem test_parameters_legal : Config.hardware.legal = true := by decide
/-- A wait that never ends leaves BUSY after the first write, and the next step is the stuck state (R361). -/
theorem test_silent_delay :
    thenNext (exec (.cmd 1#8 0#8 0#8) { lit (oks 4) with dlIn := [.never] }) (fun t =>
      dlValid t && dlUs t == 1#16 && t.top == .busy &&
      (match step t with
        | .fault .delaySilent => true
        | _ => false)) = true := by decide

/-! ### Witnesses: for each statement with hypotheses, a state and operands that meet them all -/

/-- An idle framer on the backpack map is ready, whatever its transport will answer. -/
theorem ready_scripted (l : List TpAnswer) : Ready (scripted l) :=
  { inv :=
      { busCanonical := rfl
        mapIsPerm := fun _ => (by decide : PinMap.IsPerm #v[3, 4, 5, 6, 7, 2, 1, 0])
        seqInTable := (by decide : (0#4 : BitVec 4) ≤ 10#4)
        idleAtRest := fun _ => ⟨rfl, rfl⟩
        busyMapValid := fun h => nomatch h
        busyNoResponse := fun h => nomatch h
        initOkMapValid := fun h => nomatch h
        fontFits := fun h => nomatch h }
    idle := rfl
    map := rfl }

theorem delays_scripted (l : List TpAnswer) : DelaysEnd (scripted l) := fun _ h => nomatch h

/-- The same framer with an invalid map. -/
theorem inv_unusable : Inv unusable :=
  { busCanonical := rfl
    mapIsPerm := fun h => nomatch h
    seqInTable := by decide
    idleAtRest := fun _ => ⟨rfl, rfl⟩
    busyMapValid := fun h => nomatch h
    busyNoResponse := fun h => nomatch h
    initOkMapValid := fun h => nomatch h
    fontFits := fun h => nomatch h }

/-- A framer in the middle of `DATA 0x41` (X1), about to clear enable for the high nibble. -/
def inPulse : State :=
  { lit (oks 4) with
    op := 3#4, a0 := 0x41#8, val := 0x41#8, rs := true, len := true, word := 0x4D#8, top := .busy, npd := .pulseHigh }

theorem witness_EncodeOfDecodeIsTheWord :
    decode (.port 0x2010000#28) = .ok (.cmd 1#8 0#8 0#8) ∧
    decode (.sequencer false 0x30#8) = .ok (.kProbe 0#4) ∧
    decode (.sequencer true 0x24#8) = .ok (.kFuncset false true) ∧
    decode (.layer 0xFF#8) = .ok (.setddram 0x7F#7) := by decide

theorem witness_CommandPortDecodesByMatchAndMask :
    0x1FFFFFF#28 &&& 0xF000000#28 = 0x1000000#28 ∧ 0x2000000#28 &&& 0xF000000#28 = 0x2000000#28 ∧
    0x3000001#28 &&& 0xF000000#28 = 0x3000000#28 ∧ 0x4FFFFFF#28 &&& 0xF000000#28 = 0x4000000#28 ∧
    0x5000000#28 &&& 0xF000000#28 = 0x5000000#28 ∧ 0x6FFFFFF#28 &&& 0xF000000#28 = 0x6000000#28 ∧
    0x0FFFFFF#28 &&& 0xF000000#28 = 0#28 ∧ 0x7000000#28 ≤ 0x7000000#28 ∧ 0x7000000#28 ≤ 0xFFFFFFF#28 := by decide

theorem witness_SequencerEntriesAreWellFormedRows :
    Inv { State.reset with seq := 1#4 } ∧ 1#4 ≤ 1#4 ∧ 1#4 ≤ 9#4 ∧ Inv { State.reset with seq := 9#4 } ∧
    1#4 ≤ 9#4 ∧ 9#4 ≤ 9#4 :=
  ⟨{ (ready_scripted []).inv with seqInTable := by decide }, by decide, by decide,
    { (ready_scripted []).inv with seqInTable := by decide }, by decide, by decide⟩

/-- M2 is valid and gives slot 7 to port 0; M5 and M6 meet neither side. -/
theorem witness_MapValidExactlyForPermutations :
    (construct 0x43210567#32 false 0x27#7 State.reset).mapValid = true ∧
    (declCode 0x43210567#32 0).toNat = (7 : Fin 8).val ∧
    (construct 0x93210567#32 false 0x27#7 State.reset).mapValid = false ∧
    ¬ (∀ k : Port, declCode 0x93210567#32 k ≤ 7#4) ∧
    (construct 0x43210577#32 false 0x27#7 State.reset).mapValid = false ∧
    declCode 0x43210577#32 0 = declCode 0x43210577#32 1 := by decide

theorem witness_PhysAndLogRelocateAndInvert : PinMap.IsPerm State.reset.pm := by decide

theorem witness_EncodedWordsCarryTheirFields :
    PinMap.IsPerm State.reset.pm ∧ encWord State.reset true false true 4#4 = 0x45#8 ∧
    0x41#8 = 0x45#8 &&& ~~~(1#8 <<< State.reset.pm[slotE].val) := by decide

/-- I2, I3, I5 (rows 0 and 1), I1 (rows 2), I6 (rows 255): each clause at the ends of its range. -/
theorem witness_FunctionSetByteByGeometry :
    0#8 ≤ 1#8 ∧ 1#8 ≤ 1#8 ∧ 2#8 ≤ 2#8 ∧ 2#8 ≤ 255#8 ∧ ¬ 2#8 ≤ 1#8 ∧ ¬ 2#8 ≤ 1#8 := by decide

theorem witness_AssembleRowsOfTheDriver :
    (∀ q ∈ [Npd.assembleHigh, Npd.assembleLow], ∀ rw : Bool, ∃ s : State, s.npd = q ∧ s.rw = rw ∧
      s.prm.rdSample = .duringEnable ∧ (transportAnswer s).isOk = true ∧ DelaysEnd s) := by
  intro q _ rw
  exact ⟨{ scripted (oks 1) with npd := q, rw := rw }, rfl, rfl, rfl, rfl, fun _ h => nomatch h⟩

theorem witness_PulseRowsOfTheDriver :
    inPulse.prm.rdSample = .duringEnable ∧ (transportAnswer inPulse).isOk = true ∧ DelaysEnd inPulse ∧
    0x49#8 = inPulse.word &&& ~~~(1#8 <<< inPulse.pm[slotE].val) ∧ inPulse.npd = .pulseHigh ∧
    Npd.assembleLow = (if inPulse.len then Npd.assembleLow else Npd.done) ∧
    ({ inPulse with npd := .pulseLow } : State).npd = .pulseLow :=
  ⟨rfl, rfl, fun _ h => (nomatch h), by decide, rfl, rfl, rfl⟩

theorem witness_SampleRowsOfTheDriver :
    ∀ q ∈ [Npd.sampleHigh, Npd.sampleLow], ∃ s : State, s.npd = q ∧ s.prm.rdSample = .duringEnable ∧
      transportAnswer s = .ok 0x4E#8 := by
  intro q _
  exact ⟨{ scripted (oks 1) with npd := q }, rfl, rfl, rfl⟩

theorem witness_FailedCallAbortsTheDriver :
    ∀ q ∈ [Npd.assembleHigh, Npd.sampleHigh, Npd.pulseHigh, Npd.assembleLow, Npd.sampleLow, Npd.pulseLow],
      ∃ s : State, s.npd = q ∧ transportAnswer s = .fail ∧ s.npd ≠ .done := by
  intro q hq
  refine ⟨{ scripted [.fail] with npd := q }, rfl, rfl, ?_⟩
  revert q; decide

theorem witness_CmdSendsItsByte :
    Ready (scripted (oks 4)) ∧ CallsSucceed 4 (scripted (oks 4)) ∧ DelaysEnd (scripted (oks 4)) :=
  ⟨ready_scripted _, by decide, delays_scripted _⟩

theorem witness_DataSendsItsByte :
    Ready (scripted (oks 4)) ∧ CallsSucceed 4 (scripted (oks 4)) ∧ DelaysEnd (scripted (oks 4)) :=
  ⟨ready_scripted _, by decide, delays_scripted _⟩

theorem witness_InitRunsTheWholeSequence :
    Ready (scripted (oks 28)) ∧ CallsSucceed 28 (scripted (oks 28)) ∧ DelaysEnd (scripted (oks 28)) :=
  ⟨ready_scripted _, by decide, delays_scripted _⟩

theorem witness_BacklightWritesItsWord :
    Ready (scripted (oks 1)) ∧ CallsSucceed 1 (scripted (oks 1)) ∧ DelaysEnd (scripted (oks 1)) :=
  ⟨ready_scripted _, by decide, delays_scripted _⟩

/-- Both values of `BF_FULL_CYCLE`. -/
theorem witness_RdbfAnswersTheBusyFlag :
    ∀ full : Bool, ∃ s : State, s.prm.bfFullCycle = full ∧ Ready s ∧
      CallsSucceed (if s.prm.bfFullCycle then 6 else 3) s ∧ DelaysEnd s := by
  intro full
  refine ⟨{ scripted (oks 6) with prm := { Config.hardware with bfFullCycle := full } }, rfl,
    ⟨{ (ready_scripted (oks 6)).inv with }, rfl, rfl⟩, ?_, fun _ h => nomatch h⟩
  cases full <;> decide

theorem witness_RdacAnswersTheAddressCounter :
    Ready (scripted (oks 6)) ∧ CallsSucceed 6 (scripted (oks 6)) ∧ DelaysEnd (scripted (oks 6)) :=
  ⟨ready_scripted _, by decide, delays_scripted _⟩

/-- The words of A2: `a = 0x45`, `f = 1`. -/
def roundTrip : State := scripted [.ok 0#8, .ok 0xCE#8, .ok 0#8, .ok 0#8, .ok 0x5E#8, .ok 0#8]

theorem witness_ReadsReverseTheEncoding :
    Ready roundTrip ∧ DelaysEnd roundTrip ∧ CallsSucceed 6 roundTrip ∧
    CallsSucceed (if roundTrip.prm.bfFullCycle then 6 else 3) roundTrip ∧
    (log roundTrip.pm (highRead roundTrip)).extractLsb' 1 4 = BitVec.ofBool true ++ (0x45#7).extractLsb' 4 3 ∧
    (log roundTrip.pm (lowRead roundTrip)).extractLsb' 1 4 = (0x45#7).extractLsb' 0 4 :=
  ⟨ready_scripted _, delays_scripted _, by decide, by decide, by decide, by decide⟩

theorem witness_SequencerNibbleRowsSend :
    Ready (scripted (oks 2)) ∧ CallsSucceed 2 (scripted (oks 2)) ∧ DelaysEnd (scripted (oks 2)) :=
  ⟨ready_scripted _, by decide, delays_scripted _⟩

theorem witness_SequencerByteRowsSend :
    Ready (scripted (oks 4)) ∧ CallsSucceed 4 (scripted (oks 4)) ∧ DelaysEnd (scripted (oks 4)) :=
  ⟨ready_scripted _, by decide, delays_scripted _⟩

theorem witness_ClearAndHomeSendAndWait :
    Ready (scripted (oks 4)) ∧ CallsSucceed 4 (scripted (oks 4)) ∧ DelaysEnd (scripted (oks 4)) :=
  ⟨ready_scripted _, by decide, delays_scripted _⟩

theorem witness_AddressAndShiftRowsSend :
    Ready (scripted (oks 4)) ∧ CallsSucceed 4 (scripted (oks 4)) ∧ DelaysEnd (scripted (oks 4)) :=
  ⟨ready_scripted _, by decide, delays_scripted _⟩

theorem witness_FlagRowsWriteAndSend :
    Ready (scripted (oks 4)) ∧ CallsSucceed 4 (scripted (oks 4)) ∧ DelaysEnd (scripted (oks 4)) :=
  ⟨ready_scripted _, by decide, delays_scripted _⟩

/-- Q11 (no row: row 0), Q7 (row clamped to 1), Q10 (row 2), Q9 (row 3), and the first row that no rule
places (4, of 5 rows). -/
theorem witness_SetCursorClampsAndAddresses :
    clampIndex 9#8 0#8 = 0#8 ∧ clampIndex 2#8 2#8 = 1#8 ∧ clampIndex 2#8 4#8 = 2#8 ∧ clampIndex 3#8 4#8 = 3#8 ∧
    clampIndex 4#8 5#8 = 4#8 ∧ 4#8 ≤ 4#8 := by decide

/-- X12, AF2, L15, I17, and a row of the sequencer and of the layer: a failed write, a failed read, a failed
single write, the last write of INIT, and the last of a byte. -/
theorem witness_FailedCallEndsTheOperation :
    (∀ p ∈ [(Instr.data 0x41#8 0#8 0#8, 1), (.rdac 0#8 0#8 0#8, 1), (.backlight 1#8 0#8 0#8, 0),
        (.init 16#8 2#8 0#8, 27), (.kProbe 0#4, 0), (.kClear, 3), (.clear, 3)],
      p.2 < calls (successEvents (scripted (oks p.2 ++ [.fail])) p.1)) ∧
    (∀ j ∈ [0, 1, 3, 27], Ready (scripted (oks j ++ [.fail])) ∧ DelaysEnd (scripted (oks j ++ [.fail])) ∧
      CallsSucceed j (scripted (oks j ++ [.fail])) ∧ answer j (scripted (oks j ++ [.fail])) = .fail) ∧
    IsSequencerRow .kClear ∧ IsLayerRow .clear ∧ encode .clear = .layer 0x01#8 ∧
    ¬ IsLayerRow (.data 0x41#8 0#8 0#8) :=
  ⟨by decide, fun j hj => ⟨ready_scripted _, delays_scripted _, by revert j; decide, by revert j; decide⟩,
    ⟨true, 0x01#8, rfl⟩, ⟨0x01#8, rfl⟩, rfl, fun ⟨_, h⟩ => nomatch h⟩

theorem witness_FailedInitLeavesItsStep :
    Ready (scripted [.fail]) ∧ DelaysEnd (scripted [.fail]) ∧ 0 < 28 ∧ CallsSucceed 0 (scripted [.fail]) ∧
    answer 0 (scripted [.fail]) = .fail ∧ Ready (scripted (oks 27 ++ [.fail])) ∧ 27 < 28 ∧
    CallsSucceed 27 (scripted (oks 27 ++ [.fail])) ∧ answer 27 (scripted (oks 27 ++ [.fail])) = .fail :=
  ⟨ready_scripted _, delays_scripted _, by decide, by decide, by decide, ready_scripted _, by decide, by decide,
    by decide⟩

theorem witness_FailedBacklightKeepsTheRequest :
    Ready (scripted [.fail]) ∧ answer 0 (scripted [.fail]) = .fail := ⟨ready_scripted _, by decide⟩

/-- A resetting input, for the clauses about reset. -/
def resetting (decl : BitVec 32) : State := { State.reset with hostIn := [.reset decl false 0x27#7] }

theorem witness_InvalidMapRefusesEveryCommand :
    Inv unusable ∧ unusable.top = .idle ∧ unusable.mapValid = false ∧ NoResetNext unusable ∧
    (∃ t, step unusable = .next t) ∧
    (resetting 0x43210567#32).hostIn = [.reset 0x43210567#32 false 0x27#7] ∧
    ∃ t, step (resetting 0x43210567#32) = .next t ∧ t.mapValid = true :=
  ⟨inv_unusable, rfl, rfl, fun _ _ _ _ h => (nomatch h), ⟨_, rfl⟩, rfl, ⟨_, rfl, by decide⟩⟩

/-- E9, E10, E12. -/
theorem witness_ReservedOpcodeIsIllegal :
    Ready (scripted []) ∧ (0#28).extractLsb' 24 4 = 0#4 ∧ 7#4 ≤ (0x7000000#28).extractLsb' 24 4 ∧
    7#4 ≤ (0xFFFFFFF#28).extractLsb' 24 4 := ⟨ready_scripted _, by decide, by decide, by decide⟩

/-- A framer whose next wait but `k` never ends. -/
def silentDelay (k : Nat) : State := { scripted (oks 28) with dlIn := List.replicate k .done ++ [.never] }

/-- The last call of a byte, and of a row of the layer; INIT's power-on wait, its last wait, a probe's own. -/
theorem witness_SilentCollaboratorIsStuck :
    (Ready (scripted (oks 3 ++ [.never])) ∧ DelaysEnd (scripted (oks 3 ++ [.never])) ∧
      CallsSucceed 3 (scripted (oks 3 ++ [.never])) ∧ answer 3 (scripted (oks 3 ++ [.never])) = .never ∧
      ∀ i ∈ [Instr.cmd 1#8 0#8 0#8, .clear, .kDisplayOn],
        3 < calls (successEvents (scripted (oks 3 ++ [.never])) i)) ∧
    (∀ p ∈ [(Instr.init 16#8 2#8 0#8, 0), (.init 16#8 2#8 0#8, 32), (.kClear, 4), (.backlight 1#8 0#8 0#8, 0)],
      p.2 < ((successEvents (silentDelay p.2) p.1).filter Event.isDelay).length ∧
      CallsSucceed (calls (cutAtDelay p.2 (successEvents (silentDelay p.2) p.1))) (silentDelay p.2)) ∧
    (∀ k ∈ [0, 4, 32], FirstSilentDelay k (silentDelay k)) ∧
    thenNext (exec (.cmd 1#8 0#8 0#8) (scripted (oks 3 ++ [.never]))) (fun t => t.hostIn == []) = true :=
  ⟨⟨ready_scripted _, delays_scripted _, by decide, by decide, by decide⟩, by decide,
    by unfold FirstSilentDelay; decide, by decide⟩

theorem ready_silentDelay (k : Nat) : Ready (silentDelay k) :=
  ⟨{ (ready_scripted (oks 28)).inv with }, rfl, rfl⟩

theorem witness_FrameOfCmdAndData :
    (∃ t, exec (.cmd 1#8 0#8 0#8) (scripted (oks 4)) = .next t) ∧
    (∃ t, exec (.data 1#8 0#8 0#8) (scripted (oks 4)) = .next t) ∧ unusable.mapValid = false :=
  ⟨exec_next _ _, exec_next _ _, rfl⟩

theorem witness_FrameOfReads :
    (∃ t, exec (.rdbf 0#8 0#8 0#8) (scripted (oks 6)) = .next t) ∧
    (∃ t, exec (.rdac 0#8 0#8 0#8) (scripted (oks 6)) = .next t) ∧ unusable.mapValid = false :=
  ⟨exec_next _ _, exec_next _ _, rfl⟩

theorem witness_FrameOfBacklight :
    (∃ t, exec (.backlight 1#8 0#8 0#8) (scripted (oks 1)) = .next t) ∧ unusable.mapValid = false :=
  ⟨exec_next _ _, rfl⟩

theorem witness_FrameOfInit :
    (∃ t, exec (.init 16#8 2#8 0#8) (scripted (oks 28)) = .next t) ∧ unusable.mapValid = false :=
  ⟨exec_next _ _, rfl⟩

theorem witness_FrameOfSequencerRows :
    (∀ i ∈ [Instr.kProbe 0#4, .kSwitch4 0#4, .kFuncset true false, .kDisplayOff, .kClear, .kEntryLtr, .kDisplayOn],
      ∃ t, exec i (scripted (oks 4)) = .next t) ∧ unusable.mapValid = false :=
  ⟨fun i _ => exec_next i _, rfl⟩

theorem witness_FrameOfLayerRows :
    (∀ i ∈ [Instr.clear, .home, .setddram 0#7, .displayctl true false false, .entrymode true false, .shift true,
      .setcgram 0#6], ∃ t, exec i (scripted (oks 4)) = .next t) ∧ unusable.mapValid = false :=
  ⟨fun i _ => exec_next i _, rfl⟩

theorem witness_BacklightLevelInEveryWord :
    Inv (scripted (oks 4)) ∧ (scripted (oks 4)).mapValid = true ∧
    thenNext (exec (.cmd 1#8 0#8 0#8) (scripted (oks 4))) (fun t => t.trace.contains (Event.write 0x04#8)) = true :=
  ⟨(ready_scripted _).inv, rfl, by decide⟩

/-- A DATA, a read, and an operation that is neither. -/
theorem witness_ControlLinesOfEveryWord :
    Inv (scripted (oks 6)) ∧ (scripted (oks 6)).mapValid = true ∧
    thenNext (exec (.data 0x41#8 0#8 0#8) (scripted (oks 6))) (fun t => t.trace.contains (Event.write 0x45#8)) = true ∧
    thenNext (exec (.rdac 0#8 0#8 0#8) (scripted (oks 6))) (fun t => t.trace.contains (Event.write 0xF6#8)) = true ∧
    thenNext (exec (.cmd 1#8 0#8 0#8) (scripted (oks 6))) (fun t => t.trace.contains (Event.write 0x04#8)) = true :=
  ⟨(ready_scripted _).inv, rfl, by decide, by decide, by decide⟩

/-- A completed command, and one whose transport never answers. -/
theorem witness_OneResponsePerCommand :
    thenNext (fetchStep (.port 0x2010000#28) (scripted (oks 4))) (fun t => t.top == .idle) = true ∧
    thenNext (fetchStep (.port 0x2010000#28) (scripted [.never])) (fun t => t.top == .busy) = true := by decide

theorem witness_EveryWriteIsFollowedByItsDelay :
    Inv (scripted (oks 1)) ∧ (scripted (oks 1)).mapValid = true ∧
    thenNext (exec (.backlight 1#8 0#8 0#8) (scripted (oks 1))) (fun t => t.trace.contains (Event.write 0x08#8)) = true :=
  ⟨(ready_scripted _).inv, rfl, by decide⟩

theorem witness_ConfigurationIsImmutable :
    NoResetNext { scripted (oks 4) with hostIn := [.fetch (.port 0x2010000#28)] } ∧
    thenNext (step { scripted (oks 4) with hostIn := [.fetch (.port 0x2010000#28)] }) (fun t => t.op == 2#4) = true :=
  ⟨fun _ _ _ _ h => (nomatch h), by decide⟩

/-- A CMD; a row of the sequencer that completes, that fails, and on an invalid map. -/
theorem witness_ConditionChangesInInitAndFailedSequencerRows :
    (∃ t, exec (.cmd 1#8 0#8 0#8) (scripted (oks 4)) = .next t) ∧
    (∀ c r f, Instr.cmd 1#8 0#8 0#8 ≠ .init c r f) ∧ ¬ IsSequencerRow (.cmd 1#8 0#8 0#8) ∧
    IsSequencerRow .kDisplayOn ∧
    thenNext (exec .kDisplayOn { scripted (oks 4) with initOk := true }) (fun t => condition t == .ready) = true ∧
    thenNext (exec .kDisplayOn { scripted [.fail] with initOk := true }) (fun t =>
      condition t == .uninitialised) = true ∧
    thenNext (exec .kDisplayOn unusable) (fun t => t.status == .configError) = true :=
  ⟨exec_next _ _, fun _ _ _ h => (nomatch h), fun ⟨_, _, h⟩ => (nomatch h), ⟨true, 0x0C#8, rfl⟩, by decide, by decide,
    by decide⟩

/-- Each of the three ways INIT can end. -/
theorem witness_InitDecidesReadiness :
    (scripted (oks 28)).mapValid = true ∧
    (∃ t, exec (.init 16#8 2#8 0#8) (scripted (oks 28)) = .next t) ∧
    thenNext (exec (.init 16#8 2#8 0#8) (scripted [.fail])) (fun t => t.status == .transportError) = true ∧
    thenNext (exec (.init 16#8 2#8 0#8) (scripted [.never])) (fun t => t.top == .busy) = true :=
  ⟨rfl, exec_next _ _, by decide, by decide⟩

/-- All 28 writes answered; the first one failed, and the last one. -/
theorem witness_InitEventsCountAndNibbles :
    Ready (scripted (oks 28)) ∧ DelaysEnd (scripted (oks 28)) ∧ CallsSucceed 28 (scripted (oks 28)) ∧
    ∀ j ∈ [0, 27], j < 28 ∧ Ready (scripted (oks j ++ [.fail])) ∧ DelaysEnd (scripted (oks j ++ [.fail])) ∧
      CallsSucceed j (scripted (oks j ++ [.fail])) ∧ answer j (scripted (oks j ++ [.fail])) = .fail :=
  ⟨ready_scripted _, delays_scripted _, by decide, fun j hj =>
    ⟨by revert j; decide, ready_scripted _, delays_scripted _, by revert j; decide, by revert j; decide⟩⟩

/-- Each pair of instructions of the statement. -/
theorem witness_IgnoredArgumentBitsChangeNothing :
    (∀ i ∈ [Instr.cmd 1#8 0#8 0#8, .data 1#8 0#8 0#8, .backlight 1#8 0#8 0#8, .rdbf 0#8 0#8 0#8, .rdac 0#8 0#8 0#8,
      .init 16#8 2#8 1#8], ∃ t, exec i (scripted (oks 28)) = .next t) ∧
    (1#8).getLsbD 0 = (0xFF#8).getLsbD 0 :=
  ⟨fun i _ => exec_next i _, by decide⟩

/-- The reads 0x4E, 0x5E and 0x40, 0x50, which section 6 says answer alike. -/
def otherPorts : State := scripted [.ok 0#8, .ok 0x40#8, .ok 0#8, .ok 0#8, .ok 0x50#8, .ok 0#8]
def samePorts : State := scripted [.ok 0#8, .ok 0x4E#8, .ok 0#8, .ok 0#8, .ok 0x5E#8, .ok 0#8]

theorem witness_ReadsIgnoreTheOtherPorts :
    Ready samePorts ∧ Ready otherPorts ∧ samePorts.pm = otherPorts.pm ∧ samePorts.prm = otherPorts.prm ∧
    CallsSucceed 6 samePorts ∧ CallsSucceed 6 otherPorts ∧ DelaysEnd samePorts ∧ DelaysEnd otherPorts ∧
    (log samePorts.pm (highRead samePorts)).extractLsb' 1 4 = (log samePorts.pm (highRead otherPorts)).extractLsb' 1 4 ∧
    (log samePorts.pm (lowRead samePorts)).extractLsb' 1 4 = (log samePorts.pm (lowRead otherPorts)).extractLsb' 1 4 ∧
    (∃ t, exec (.rdac 0#8 0#8 0#8) samePorts = .next t) ∧ ∃ t, exec (.rdac 0#8 0#8 0#8) otherPorts = .next t :=
  ⟨ready_scripted _, ready_scripted _, rfl, rfl, by decide, by decide, delays_scripted _, delays_scripted _, by decide,
    by decide, exec_next _ _, exec_next _ _⟩

/-- X11 to X14, with the expander's latch at zero, so enable is low. -/
theorem witness_AbortedByteLosesThePhase :
    ∀ j < 4, ∃ s : State, Ready s ∧ DelaysEnd s ∧ CallsSucceed j s ∧ answer j s = .fail ∧
      (∃ t, exec (.data 0x41#8 0#8 0#8) s = .next t) ∧
      atSlot s.pm (Memory.read s.bus s.devAddr.toNat) slotE = false := by
  intro j hj
  refine ⟨{ scripted (oks j ++ [.fail]) with bus := [(0x27, 0#8)], ctl := .expectsHigh },
    ⟨{ (ready_scripted (oks j ++ [.fail])).inv with busCanonical := rfl }, rfl, rfl⟩, fun _ h => (nomatch h),
    ?_, ?_, exec_next _ _,
    (by decide : atSlot #v[3, 4, 5, 6, 7, 2, 1, 0] (Memory.read [(0x27, 0#8)] 0x27) slotE = false)⟩
  · revert j; decide
  · revert j; decide

theorem witness_InvIsKeptByEveryStep :
    Inv State.reset ∧ ∃ t, step State.reset = .next t := ⟨(ready_scripted []).inv, ⟨_, rfl⟩⟩

theorem witness_SmallStepsReachTheMeaning :
    Inv (scripted (oks 4)) ∧ (scripted (oks 4)).top = .idle ∧
    ∃ t, fetchStep (.port 0x2010000#28) (scripted (oks 4)) = .next t :=
  ⟨(ready_scripted _).inv, rfl, exec_next (.cmd 1#8 0#8 0#8) _⟩

theorem witness_StepRunsTheDecodedInstruction :
    State.reset.top = .idle ∧
    ({ State.reset with hostIn := [.fetch (.layer 0x80#8)] } : State).hostIn = .fetch (.layer 0x80#8) :: [] ∧
    decode (.layer 0x80#8) = .ok (.setddram 0#7) := by decide

theorem witness_BusyFramerHoldsCommandsOff :
    inPulse.top = .busy ∧ NoResetNext { inPulse with hostIn := [.fetch (.port 0x2010000#28)] } ∧
    thenNext (step { inPulse with hostIn := [.fetch (.port 0x2010000#28)] }) (fun t => t.req == .write) = true :=
  ⟨rfl, fun _ _ _ _ h => (nomatch h), by decide⟩

theorem witness_ResetLeavesTheseValues :
    (resetting 0x43210567#32).hostIn = .reset 0x43210567#32 false 0x27#7 :: [] := rfl

/-- An initialised framer, aligned with its controller, with a program. -/
def ready (l : List TpAnswer) (program : List HostEvent) : State :=
  { scripted l with initOk := true, bus := [(0x27, 0#8)], ctl := .expectsHigh, hostIn := program }

theorem inv_ready (l : List TpAnswer) (program : List HostEvent) : Inv (ready l program) :=
  { (ready_scripted l).inv with busCanonical := rfl, initOkMapValid := fun _ => rfl }

theorem witness_HostRulesKeepTheControllerAligned :
    Inv (ready (oks 4) [.fetch (.port 0x3410000#28)]) ∧ (ready (oks 4) [.fetch (.port 0x3410000#28)]).top = .idle ∧
    (ready (oks 4) [.fetch (.port 0x3410000#28)]).prm.bfFullCycle = true ∧
    hostInOrder 8 Duties.start (ready (oks 4) [.fetch (.port 0x3410000#28)]) = true ∧
    Aligned Duties.start (ready (oks 4) [.fetch (.port 0x3410000#28)]) ∧
    thenNext (step (ready (oks 4) [.fetch (.port 0x3410000#28)])) (fun t =>
      t.top == .idle && condition t == .ready && t.ctl == .expectsHigh) = true :=
  ⟨inv_ready _ _, rfl, rfl, by decide, fun _ _ _ => by decide, by decide⟩

/-! ### The host's rules -/

/-- The words of CLEAR (CMD 0x01), RDBF and `DATA 0x41`. -/
def clearDisplay : HostEvent := .fetch (.port 0x2010000#28)
def pollBusy : HostEvent := .fetch (.port 0x5000000#28)
def sendA : HostEvent := .fetch (.port 0x3410000#28)

/-- R351: two waits that together reach `T_CLEAR_US` do; less does not. -/
theorem test_settle_by_waits :
    hostKeeps 8 4 .start (ready (oks 8) [clearDisplay, .wait 1500, .wait 500, sendA]) = true ∧
    hostKeeps 8 4 .start (ready (oks 8) [clearDisplay, .wait 1500, .wait 499, sendA]) = false := by decide
/-- R351, R354: a poll that answers "busy" leaves the settle time owed, one that answers "not busy" ends it,
and the polls have a bound. -/
theorem test_settle_by_polls :
    hostKeeps 8 3 .start (ready (oks 5 ++ [.ok 0x80#8] ++ oks 8) [clearDisplay, pollBusy, sendA]) = false ∧
    hostKeeps 8 3 .start (ready (oks 5 ++ [.ok 0x0E#8] ++ oks 8) [clearDisplay, pollBusy, sendA]) = true ∧
    hostKeeps 1 3 .start (ready (oks 5 ++ [.ok 0x80#8] ++ oks 8) [clearDisplay, pollBusy, pollBusy]) = false := by decide
/-- R353, R360: after a failed DATA, and after a loss of the display's power, INIT comes first. -/
theorem test_init_comes_first :
    hostKeeps 8 2 .start (ready [.fail] [sendA, sendA]) = false ∧
    hostKeeps 8 2 .start (ready [.fail] [sendA, .fetch (.port 0x1100200#28)]) = true ∧
    hostKeeps 8 2 .start (ready (oks 4) [.powerLoss, sendA]) = false ∧
    thenNext (step (ready [] [.powerLoss])) (fun t => t.initOk && t.ctl == .unknown) = true := by decide
/-- R345 (2), R355, R357: with an invalid map any operation may be issued, and no call of the layer; before
INIT nothing but INIT and BACKLIGHT. -/
theorem test_may_issue :
    mayIssue .unusable sendA.use = true ∧ mayIssue .unusable (HostEvent.call .clear).use = false ∧
    mayIssue .uninitialised sendA.use = false ∧ mayIssue .uninitialised (HostEvent.fetch (.port 0x4010000#28)).use = true ∧
    mayIssue .ready (HostEvent.fetch (.sequencer false 0x30#8)).use = false ∧ mayIssue .ready (HostEvent.call .clear).use = true := by
  decide

end Sys2Proof.Tests
end

section
/-! PROOFS. A relation that every elementary action keeps holds across every call, wait, transfer and
sequence of an operation, however the collaborators answer. -/

namespace Sys2Proof.Machine

/-- A reflexive and transitive relation that holds across every elementary action of a call or a wait. -/
structure AcrossCalls (R : State → State → Prop) : Prop where
  refl : ∀ s, R s s
  trans : ∀ a b c, R a b → R b c → R a c
  putWord : ∀ w s, R s (putWord w s)
  issueWrite : ∀ s, R s (issueWrite s)
  issueRead : ∀ s, R s (issueRead s)
  issueDelay : ∀ n s, R s (issueDelay n s)
  requestDone : ∀ s, R s (requestDone s)
  landWord : ∀ s, R s (landWord s)
  maybeLandWord : ∀ s, R s (maybeLandWord s)
  latchRead : ∀ b s, R s (latchRead b s)
  endDelay : ∀ s, R s (endDelay s)

/-- The same, and across the driver's own moves (R171, R172). -/
structure AcrossTransfers (R : State → State → Prop) : Prop extends AcrossCalls R where
  npdAdvance : ∀ s, R s (npdAdvance s)
  xferStart : ∀ rs rw v len s, R s (xferStart rs rw v len s)

/-- The same, and across the advance of `SEQ` (R201). -/
structure AcrossSequence (R : State → State → Prop) : Prop extends AcrossTransfers R where
  seqAdvance : ∀ s, R s (seqAdvance s)

variable {R : State → State → Prop}

/-- What relates a state to the one carried relates it to where the flow goes on. -/
theorem Flow.rel_going {s t : State} {f : Flow} (hf : f = .going t) (h : R s f.state) : R s t := by
  subst hf; exact h

theorem AcrossCalls.receiveWrite (h : AcrossCalls R) (s : State) : R s (receiveWrite s).state := by
  unfold Machine.receiveWrite
  split
  · exact h.trans _ _ _ (h.requestDone s) (h.landWord _)
  · exact h.trans _ _ _ (h.requestDone s) (h.maybeLandWord _)
  · exact h.refl s

theorem AcrossCalls.receiveRead (h : AcrossCalls R) (s : State) : R s (receiveRead s).state := by
  unfold Machine.receiveRead
  split
  · exact h.trans _ _ _ (h.requestDone s) (h.latchRead _ _)
  · exact h.requestDone s
  · exact h.refl s

theorem AcrossCalls.receiveDelay (h : AcrossCalls R) (s : State) : R s (receiveDelay s).state := by
  unfold Machine.receiveDelay
  split
  · exact h.refl s
  · exact h.endDelay s
  · exact h.endDelay s

theorem AcrossCalls.delay (h : AcrossCalls R) (n : Micros) (s : State) : R s (delay n s).state :=
  h.trans _ _ _ (h.issueDelay n s) (h.receiveDelay _)

theorem AcrossCalls.ownDelay (h : AcrossCalls R) (n : Option Micros) (s : State) :
    R s (ownDelay n s).state := by
  cases n with
  | some n => exact h.delay n s
  | none => exact h.refl s

theorem AcrossCalls.writeThenDelay (h : AcrossCalls R) (n : Micros) (s : State) :
    R s ((Machine.receiveWrite (Machine.issueWrite s)).andThen (Machine.delay n)).state :=
  Flow.rel_andThen h.trans (h.trans _ _ _ (h.issueWrite s) (h.receiveWrite _)) fun t _ => h.delay n t

/-- Every row but `DONE` writes or reads. -/
theorem Npd.writes_or_samples {q : Npd} (h : q ≠ .done) :
    q.Writes ∨ q = .sampleHigh ∨ q = .sampleLow := by cases q <;> simp [Npd.Writes] at h ⊢

theorem npdAction_done {s : State} (h : s.npd = .done) : npdAction s = .going s := by
  simp only [npdAction, h]

theorem AcrossCalls.npdAction (h : AcrossCalls R) (s : State) : R s (npdAction s).state := by
  by_cases hd : s.npd = .done
  · rw [npdAction_done hd]; exact h.refl s
  · rcases Npd.writes_or_samples hd with hw | hr
    · rw [npdAction_write hw]
      exact h.trans _ _ _ (h.putWord _ s) (h.writeThenDelay _ _)
    · rw [npdAction_read hr]
      exact h.trans _ _ _ (h.issueRead s) (h.receiveRead _)

theorem AcrossTransfers.npdStep (h : AcrossTransfers R) (s : State) : R s (npdStep s).state :=
  Flow.rel_andThen h.trans (h.npdAction s) fun t _ => h.npdAdvance t

theorem AcrossTransfers.npdRun (h : AcrossTransfers R) (n : Nat) (s : State) : R s (npdRun n s).state := by
  induction n generalizing s with
  | zero => exact h.refl s
  | succ n ih =>
    rw [Machine.npdRun]
    split
    · exact h.refl s
    · exact Flow.rel_andThen h.trans (h.npdStep s) fun t _ => ih t

theorem AcrossTransfers.xfer (h : AcrossTransfers R) (rs rw : Bool) (v : Byte) (len : Bool) (s : State) :
    R s (xfer rs rw v len s).state :=
  h.trans _ _ _ (h.xferStart rs rw v len s) (h.npdRun 6 _)

theorem AcrossTransfers.seqSend (h : AcrossTransfers R) (r : SeqRow) (s : State) :
    R s (seqSend r s).state :=
  Flow.rel_andThen h.trans (h.xfer _ _ _ _ s) fun t _ => h.ownDelay _ t

theorem AcrossTransfers.seqAction (h : AcrossTransfers R) (s : State) : R s (seqAction s).state := by
  unfold Machine.seqAction
  split
  · exact h.seqSend _ s
  · split
    · exact h.delay _ s
    · exact h.refl s

theorem AcrossSequence.seqRun (h : AcrossSequence R) (n : Nat) (s : State) : R s (seqRun n s).state := by
  induction n generalizing s with
  | zero => exact h.refl s
  | succ n ih =>
    rw [Machine.seqRun]
    split
    · exact Flow.rel_andThen h.trans (h.seqAction s) fun t _ => h.trans _ _ _ (h.seqAdvance t) (ih _)
    · exact h.refl s

/-! ### What no call touches: the driver's state and operands; what no transfer touches: `SEQ` -/

/-- What a row of the driver goes by, the same in both states. -/
structure SameDriver (s t : State) : Prop where
  prm : t.prm = s.prm
  rw : t.rw = s.rw
  len : t.len = s.len
  npd : t.npd = s.npd

theorem SameDriver.acrossCalls : AcrossCalls SameDriver where
  refl _ := ⟨rfl, rfl, rfl, rfl⟩
  trans _ _ _ h g := ⟨g.prm.trans h.prm, g.rw.trans h.rw, g.len.trans h.len, g.npd.trans h.npd⟩
  putWord _ _ := ⟨rfl, rfl, rfl, rfl⟩
  issueWrite _ := ⟨rfl, rfl, rfl, rfl⟩
  issueRead _ := ⟨rfl, rfl, rfl, rfl⟩
  issueDelay _ _ := ⟨rfl, rfl, rfl, rfl⟩
  requestDone _ := by constructor <;> simp
  landWord _ := ⟨rfl, rfl, rfl, rfl⟩
  maybeLandWord _ := ⟨rfl, rfl, rfl, rfl⟩
  latchRead _ _ := by constructor <;> simp
  endDelay _ := ⟨rfl, rfl, rfl, rfl⟩

/-- `SEQ` is the same in both states. -/
def SameSeq (s t : State) : Prop := t.seq = s.seq

theorem SameSeq.acrossTransfers : AcrossTransfers SameSeq where
  refl _ := rfl
  trans _ _ _ h g := Eq.trans g h
  putWord _ _ := rfl
  issueWrite _ := rfl
  issueRead _ := rfl
  issueDelay _ _ := rfl
  requestDone := requestDone_seq
  landWord _ := rfl
  maybeLandWord _ := rfl
  latchRead := latchRead_seq
  endDelay _ := rfl
  npdAdvance _ := rfl
  xferStart _ _ _ _ _ := rfl

/-! ### Where a flow goes on, nothing is outstanding and the driver is `DONE` -/

/-- `NPD = DONE`, and nothing is asked of anyone (R34, R36). -/
def AtRest (s : State) : Prop := s.npd = .done ∧ s.req = .none

theorem receiveRead_going_req {s t : State} (h : receiveRead s = .going t) : t.req = .none := by
  unfold receiveRead at h
  split at h <;> cases h
  simp

/-- A wait that ends uses up its answer and no more. -/
theorem receiveDelay_going {s t : State} (h : receiveDelay s = .going t) : t = endDelay s := by
  unfold receiveDelay at h
  split at h <;> cases h <;> rfl

theorem receiveDelay_not_aborted (s t : State) : receiveDelay s ≠ .aborted t := by
  unfold receiveDelay
  split <;> simp

theorem delay_going {s t : State} {n : Micros} (h : delay n s = .going t) :
    t = endDelay (issueDelay n s) := receiveDelay_going h

theorem AtRest.delay {s t : State} {n : Micros} (hs : AtRest s) (h : delay n s = .going t) :
    AtRest t := by
  rw [delay_going h]
  exact ⟨hs.1, rfl⟩

theorem AtRest.ownDelay {s t : State} {n : Option Micros} (hs : AtRest s)
    (h : ownDelay n s = .going t) : AtRest t := by
  cases n with
  | some n => exact hs.delay h
  | none => cases h; exact hs

theorem npdAction_going_req {s t : State} (hn : s.npd ≠ .done) (h : npdAction s = .going t) :
    t.req = .none := by
  rcases Npd.writes_or_samples hn with hw | hr
  · rw [npdAction_write hw] at h
    obtain ⟨u, -, hu⟩ := Flow.andThen_eq_going.1 h
    rw [delay_going hu]
    rfl
  · rw [npdAction_read hr] at h
    exact receiveRead_going_req h

/-- A row that completed: nothing outstanding, and the driver in the next row of R172 or R184. -/
theorem npdStep_going {s t : State} (hn : s.npd ≠ .done) (h : npdStep s = .going t) :
    t.req = .none ∧ t.prm = s.prm ∧ t.npd = npdNext s.prm.rdSample s.rw s.len s.npd := by
  obtain ⟨u, hu, ht⟩ := Flow.andThen_eq_going.1 h
  obtain ⟨hprm, hrw, hlen, hnpd⟩ := Flow.rel_going hu (SameDriver.acrossCalls.npdAction s)
  cases ht
  exact ⟨npdAction_going_req (t := u) hn hu, hprm, by rw [npdAdvance_npd, hprm, hrw, hlen, hnpd]⟩

/-- How many rows the driver has left at most, in the order of R172 and of R184. -/
def rowsLeft : RdSample → Npd → Nat
  | _, .done => 0
  | _, .assembleHigh => 6
  | .duringEnable, .sampleHigh => 5
  | .duringEnable, .pulseHigh => 4
  | .afterPulse, .pulseHigh => 5
  | .afterPulse, .sampleHigh => 4
  | _, .assembleLow => 3
  | .duringEnable, .sampleLow => 2
  | .duringEnable, .pulseLow => 1
  | .afterPulse, .pulseLow => 2
  | .afterPulse, .sampleLow => 1

/-- Every row leaves fewer rows to run. -/
theorem rowsLeft_npdNext (sample : RdSample) (rw len : Bool) {q : Npd} (h : q ≠ .done) :
    rowsLeft sample (npdNext sample rw len q) < rowsLeft sample q := by
  revert rw len
  cases q
  case done => exact absurd rfl h
  all_goals cases sample <;> decide

theorem rowsLeft_npdStep {s t : State} (hn : s.npd ≠ .done) (h : npdStep s = .going t) :
    rowsLeft t.prm.rdSample t.npd < rowsLeft s.prm.rdSample s.npd := by
  obtain ⟨-, hprm, hnpd⟩ := npdStep_going hn h
  rw [hprm, hnpd]
  exact rowsLeft_npdNext _ _ _ hn

/-- The driver that goes on has reached `DONE`. -/
theorem npdRun_going {n : Nat} {s t : State} (hl : rowsLeft s.prm.rdSample s.npd ≤ n)
    (hr : s.npd = .done → s.req = .none) (h : npdRun n s = .going t) : AtRest t := by
  induction n generalizing s with
  | zero =>
    cases h
    have hd : t.npd = .done := by
      by_contra hn
      have := rowsLeft_npdNext t.prm.rdSample t.rw t.len hn
      omega
    exact ⟨hd, hr hd⟩
  | succ n ih =>
    rw [npdRun] at h
    split at h
    next hd => cases h; exact ⟨hd, hr hd⟩
    next hn =>
      obtain ⟨u, hu, hrun⟩ := Flow.andThen_eq_going.1 h
      have hlt := rowsLeft_npdStep hn hu
      exact ih (by omega) (fun _ => (npdStep_going hn hu).1) hrun

theorem xfer_going {rs rw len : Bool} {v : Byte} {s t : State} (h : xfer rs rw v len s = .going t) :
    AtRest t :=
  npdRun_going (Nat.le_refl 6) (fun hd => absurd hd (by simp)) h

theorem seqSend_going {r : SeqRow} {s t : State} (h : seqSend r s = .going t) : AtRest t := by
  obtain ⟨u, hu, hd⟩ := Flow.andThen_eq_going.1 h
  exact (xfer_going hu).ownDelay hd

theorem AtRest.seqAction {s t : State} (hs : AtRest s) (h : seqAction s = .going t) : AtRest t := by
  unfold Machine.seqAction at h
  split at h
  · exact seqSend_going h
  · split at h
    · exact hs.delay h
    · cases h; exact hs

theorem AtRest.seqAdvance {s : State} (hs : AtRest s) : AtRest (seqAdvance s) := by
  simpa [AtRest, Machine.seqAdvance] using hs

theorem AtRest.seqRun {n : Nat} {s t : State} (hs : AtRest s) (h : seqRun n s = .going t) :
    AtRest t := by
  induction n generalizing s with
  | zero => cases h; exact hs
  | succ n ih =>
    rw [Machine.seqRun] at h
    split at h
    · obtain ⟨u, hu, hrun⟩ := Flow.andThen_eq_going.1 h
      exact ih (hs.seqAction hu).seqAdvance hrun
    · cases h; exact hs

end Sys2Proof.Machine
end

section
/-! PROOFS. The Pin Mapper's loop: a declaration it does not reject gives a permutation (R131, R136). -/

namespace Sys2Proof.Machine

/-- The loop has given port `k` the slot its role code names, and has seen that code. -/
def Placed (decl : BitVec 32) (b : MapBuild) (k : Port) : Prop :=
  ∃ h : (declCode decl k).toNat < 8,
    b.seen.getLsbD (declCode decl k).toNat = true ∧ b.pm[(declCode decl k).toNat] = k

/-- A round that rejects nothing: the code names a slot, not seen before, and that slot takes the port. -/
theorem mapRound_not_bad {decl : BitVec 32} {b : MapBuild} {k : Port}
    (h : (mapRound decl b k).bad = false) :
    b.bad = false ∧ ∃ hc : (declCode decl k).toNat < 8,
      b.seen.getLsbD (declCode decl k).toNat = false ∧
      mapRound decl b k =
        ⟨b.seen ||| 1#8 <<< (declCode decl k).toNat, false, b.pm.set (declCode decl k).toNat k hc⟩ := by
  unfold mapRound at h ⊢
  by_cases hc : (declCode decl k).toNat < 8
  · simp only [hc, dite_true, Bool.or_eq_false_iff] at h ⊢
    exact ⟨h.1, trivial, h.2, by simp [h.1, h.2]⟩
  · simp [hc] at h

/-- Such a round places its port and keeps the ports placed before. -/
theorem Placed.mapRound {decl : BitVec 32} {b : MapBuild} {j k : Port}
    (h : (mapRound decl b k).bad = false) (hj : Placed decl b j ∨ j = k) :
    Placed decl (mapRound decl b k) j := by
  obtain ⟨-, hc, hseen, heq⟩ := mapRound_not_bad h
  rw [heq]
  rcases hj with ⟨hcj, hsj, hpj⟩ | rfl
  · have hne : (declCode decl k).toNat ≠ (declCode decl j).toNat := fun e => by
      rw [e, hsj] at hseen; cases hseen
    exact ⟨hcj, by simp [hsj], by simp [hne, hpj]⟩
  · exact ⟨hc, by simp [hc], by simp⟩

/-- The loop over a list of ports places every port of the list. -/
theorem placed_foldl {decl : BitVec 32} {j : Port} (l : List Port) {b : MapBuild}
    (h : (l.foldl (mapRound decl) b).bad = false) :
    b.bad = false ∧ (Placed decl b j ∨ j ∈ l → Placed decl (l.foldl (mapRound decl) b) j) := by
  induction l generalizing b with
  | nil => exact ⟨h, by simp⟩
  | cons k r ih =>
    obtain ⟨hk, hr⟩ := ih h
    refine ⟨(mapRound_not_bad hk).1, fun hj => hr ?_⟩
    rcases hj with hb | hm
    · exact .inl (Placed.mapRound hk (.inl hb))
    · rcases List.mem_cons.1 hm with hjk | hjr
      · exact .inl (Placed.mapRound hk (.inr hjk))
      · exact .inr hjr

theorem placed_buildMap {decl : BitVec 32} (h : (buildMap decl).bad = false) (k : Port) :
    Placed decl (buildMap decl) k :=
  (placed_foldl _ h).2 (.inr (by revert k; decide))

/-- R136 (a): the map of a declaration that is not rejected is a permutation. The port's code is then a
right inverse of the map, so the map is onto, and on eight slots one-to-one. -/
theorem isPerm_buildMap {decl : BitVec 32} (h : (buildMap decl).bad = false) :
    PinMap.IsPerm (buildMap decl).pm := by
  have honto : Function.Surjective fun i : Fin 8 => (buildMap decl).pm[i] := fun k =>
    let ⟨hc, _, hp⟩ := placed_buildMap h k
    ⟨⟨_, hc⟩, hp⟩
  exact fun i j e => Finite.injective_iff_surjective.2 honto e

end Sys2Proof.Machine
end

section
/-! PROOFS. The invariant: what an operation's pieces keep of it, and that every step keeps it (O53, O54). -/

namespace Sys2Proof.Machine

/-! ### The part of the invariant that does not speak of `TOP` -/

/-- The clauses of `Inv` that hold whether an operation runs or not. -/
structure Sound (s : State) : Prop where
  busCanonical : Memory.wf s.bus = true
  mapIsPerm : s.mapValid = true → PinMap.IsPerm s.pm
  seqInTable : s.seq ≤ 10#4
  initOkMapValid : s.initOk = true → s.mapValid = true
  fontFits : s.font = true → s.rows ≤ 1#8

theorem Inv.sound {s : State} (h : Inv s) : Sound s :=
  ⟨h.busCanonical, h.mapIsPerm, h.seqInTable, h.initOkMapValid, h.fontFits⟩

theorem Sound.inv_of_idle {s : State} (h : Sound s) (ht : s.top = .idle) (hr : AtRest s) : Inv s where
  busCanonical := h.busCanonical
  mapIsPerm := h.mapIsPerm
  seqInTable := h.seqInTable
  idleAtRest _ := hr
  busyMapValid hb := by simp [ht] at hb
  busyNoResponse hb := by simp [ht] at hb
  initOkMapValid := h.initOkMapValid
  fontFits := h.fontFits

theorem Sound.inv_of_busy {s : State} (h : Sound s) (ht : s.top = .busy) (hm : s.mapValid = true)
    (hv : s.rspValid = false) : Inv s where
  busCanonical := h.busCanonical
  mapIsPerm := h.mapIsPerm
  seqInTable := h.seqInTable
  idleAtRest hi := by simp [ht] at hi
  busyMapValid _ := hm
  busyNoResponse _ := hv
  initOkMapValid := h.initOkMapValid
  fontFits := h.fontFits

theorem Sound.of_kept {s t : State} (h : Sound s) (k : Kept s t) (hq : t.seq ≤ 10#4) : Sound t where
  busCanonical := k.canonical h.busCanonical
  mapIsPerm := by rw [k.mapValid, k.pm]; exact h.mapIsPerm
  seqInTable := hq
  initOkMapValid := by rw [k.mapValid, k.initOk]; exact h.initOkMapValid
  fontFits := by rw [k.font, k.rows]; exact h.fontFits

theorem Sound.accept {s : State} (h : Sound s) (op : BitVec 4) (a0 a1 a2 : Byte) :
    Sound (accept op a0 a1 a2 s) := { h with }

theorem Sound.respond {s : State} (h : Sound s) (hr : AtRest s) (st : Status) (d : Byte) :
    Inv (respond st d s) :=
  Sound.inv_of_idle { h with } rfl hr

/-- Whatever ran, an error leaves the framer idle and at rest (R310). -/
theorem Sound.raise {s : State} (h : Sound s) (x : Status) : Inv (raise x s) :=
  Sound.inv_of_idle { h with } rfl ⟨rfl, rfl⟩

theorem Sound.raiseInitFailed {s : State} (h : Sound s) : Inv (raiseInitFailed s) :=
  Sound.inv_of_idle { h with initOkMapValid := fun hi => by cases hi } rfl ⟨rfl, rfl⟩

/-! ### A running operation -/

/-- What no call or wait writes keeps the invariant of a running operation. -/
theorem Inv.of_kept {s t : State} (h : Inv s) (hb : s.top = .busy) (k : Kept s t)
    (hq : t.seq ≤ 10#4) : Inv t :=
  (h.sound.of_kept k hq).inv_of_busy (k.top.trans hb) (k.mapValid.trans (h.busyMapValid hb))
    (k.rspValid.trans (h.busyNoResponse hb))

theorem nextSeq_le {q : BitVec 4} (h : q ≤ 10#4) : nextSeq q ≤ 10#4 := by
  revert q; decide

theorem seqAdvance_seq (s : State) : (seqAdvance s).seq = nextSeq s.seq := rfl

/-- `SEQ` stays in the table (R35, R104). -/
def KeepsSeqInTable (s t : State) : Prop := s.seq ≤ 10#4 → t.seq ≤ 10#4

theorem KeepsSeqInTable.of_sameSeq {s t : State} (h : SameSeq s t) : KeepsSeqInTable s t :=
  fun hq => by rw [h]; exact hq

theorem KeepsSeqInTable.acrossSequence : AcrossSequence KeepsSeqInTable where
  refl _ := id
  trans _ _ _ h g := g ∘ h
  putWord _ _ := id
  issueWrite _ := id
  issueRead _ := id
  issueDelay _ _ := id
  requestDone s := .of_sameSeq (requestDone_seq s)
  landWord _ := id
  maybeLandWord _ := id
  latchRead b s := .of_sameSeq (latchRead_seq b s)
  endDelay _ := id
  npdAdvance _ := id
  xferStart _ _ _ _ _ := id
  seqAdvance s hq := by rw [seqAdvance_seq]; exact nextSeq_le hq

/-- A flow that wrote nothing but what calls and waits write leaves the operation running. -/
theorem Inv.running {s t : State} {f : Flow} (h : Inv s) (hb : s.top = .busy) (k : Kept s f.state)
    (hq : KeepsSeqInTable s f.state) (hf : f.state = t) : Inv t ∧ t.top = .busy := by
  subst hf
  exact ⟨h.of_kept hb k (hq h.seqInTable), k.top.trans hb⟩

/-- The end of an operation: its finish, its abort, or the wait for ever. -/
theorem Inv.settle {s : State} {f : Flow} {finish onAbort : State → State} (h : Inv s)
    (hb : s.top = .busy) (k : Kept s f.state) (hq : KeepsSeqInTable s f.state)
    (hfin : ∀ t, f = .going t → Inv t → t.top = .busy → Inv (finish t))
    (habort : ∀ t, Sound t → Inv (onAbort t)) :
    Inv ((f.andThen fun t => .going (finish t)).settle onAbort) := by
  obtain ⟨hi, hbf⟩ := h.running hb k hq rfl
  cases f with
  | going t => exact hfin t rfl hi hbf
  | aborted t => exact habort t hi.sound
  | waiting t => exact hi

/-- The map check of an operation just accepted: an invalid map ends it at once (R305). -/
theorem Sound.checked {s : State} (h : Sound s) {body : State → State} (hb : s.top = .busy)
    (hv : s.rspValid = false) (hbody : Inv s → Inv (body s)) : Inv (checked body s) := by
  by_cases hm : s.mapValid = true
  · rw [checked_valid body hm]
    exact hbody (h.inv_of_busy hb hm hv)
  · rw [checked_invalid body (by simpa using hm)]
    exact h.raise _

section
variable {s : State} (h : Inv s) (hb : s.top = .busy)
include h hb

theorem Inv.xferStart (rs rw : Bool) (v : Byte) (len : Bool) : Inv (xferStart rs rw v len s) :=
  h.of_kept hb (Kept.xferStart rs rw v len s) h.seqInTable

theorem Inv.issueWrite : Inv (issueWrite s) := h.of_kept hb (Kept.issueWrite s) h.seqInTable

theorem Inv.issueDelay (n : Micros) : Inv (issueDelay n s) :=
  h.of_kept hb (Kept.issueDelay n s) h.seqInTable

theorem Inv.seqAdvance : Inv (seqAdvance s) :=
  h.of_kept hb (Kept.seqAdvance s) (nextSeq_le h.seqInTable)

omit hb in
theorem Inv.backlightWord : Inv (backlightWord s) := { h with }

theorem Inv.initStart : Inv (initStart s) :=
  Sound.inv_of_busy
    { h.sound with
      seqInTable := by simp
      initOkMapValid := fun hi => by cases hi
      fontFits := by simp [effectiveFont] }
    hb (h.busyMapValid hb) (h.busyNoResponse hb)

theorem Inv.initFinish (hr : AtRest s) : Inv (initFinish s) :=
  Sound.respond (s := initFlags s) { h.sound with initOkMapValid := fun _ => h.busyMapValid hb } hr _ _

/-- A whole transfer and its response. -/
theorem Inv.xferAnswered (rs rw : Bool) (v : Byte) (len : Bool) (d : State → Byte) :
    Inv (((Machine.xfer rs rw v len s).andThen fun t => .going (respond .ok (d t) t)).settle
      (raise .transportError)) :=
  h.settle hb (Kept.xfer rs rw v len s) (KeepsSeqInTable.acrossSequence.xfer rs rw v len s)
    (fun _ hf hi _ => hi.sound.respond (xfer_going hf) _ _) fun _ hs => hs.raise _

/-- CMD and DATA (R181, R182). -/
theorem Inv.byteBody (rs : Bool) : Inv (byteBody rs s) :=
  h.xferAnswered hb rs false s.a0 true fun _ => 0#8

/-- RDBF (R234). -/
theorem Inv.rdbfBody : Inv (rdbfBody s) :=
  h.xferAnswered hb false true 0xFF#8 s.prm.bfFullCycle fun t => 0#7 ++ BitVec.ofBool (busyFlag t)

/-- RDAC (R236). -/
theorem Inv.rdacBody : Inv (rdacBody s) :=
  h.xferAnswered hb false true 0xFF#8 true fun t => 0#1 ++ addressCounter t

end

/-- The one write of BACKLIGHT and the wait after it (R263). -/
theorem backlight_going {s t : State} (hn : s.npd = .done)
    (h : (receiveWrite (issueWrite (backlightWord s))).andThen (delay s.prm.tSettle) = .going t) :
    AtRest t := by
  have hsame := Flow.rel_going h (SameDriver.acrossCalls.writeThenDelay _ _)
  obtain ⟨u, hu, hd⟩ := Flow.andThen_eq_going.1 h
  exact ⟨hsame.npd.trans hn, by rw [delay_going hd]; rfl⟩

theorem Kept.acrossCalls : AcrossCalls Kept where
  refl := Kept.refl
  trans := Kept.trans
  putWord := Kept.putWord
  issueWrite := Kept.issueWrite
  issueRead := Kept.issueRead
  issueDelay := Kept.issueDelay
  requestDone := Kept.requestDone
  landWord := Kept.landWord
  maybeLandWord := Kept.maybeLandWord
  latchRead := Kept.latchRead
  endDelay := Kept.endDelay

theorem Inv.backlightBody {s : State} (h : Inv s) (hb : s.top = .busy) (hn : s.npd = .done) :
    Inv (backlightBody s) :=
  h.backlightWord.settle hb (Kept.acrossCalls.writeThenDelay _ _)
    (KeepsSeqInTable.acrossSequence.writeThenDelay _ _)
    (fun _ hf hi _ => hi.sound.respond (backlight_going hn hf) _ _) fun _ hs => hs.raise _

/-- INIT (R201). -/
theorem Inv.initBody {s : State} (h : Inv s) (hb : s.top = .busy) (hr : AtRest s) :
    Inv (initBody s) :=
  (h.initStart hb).settle hb (Kept.seqRun 10 _) (KeepsSeqInTable.acrossSequence.seqRun 10 _)
    (fun _ hf hi hb => hi.initFinish hb (AtRest.seqRun (s := Machine.initStart s) hr hf))
    fun _ hs => hs.raiseInitFailed

/-- A sequencer's row run alone (log 1), from an idle framer. -/
theorem Inv.seqAlone {s : State} (h : Inv s) (ht : s.top = .idle) (r : SeqRow) : Inv (seqAlone r s) := by
  refine Sound.checked (s := { s with top := .busy, rspValid := false }) { h.sound with } rfl rfl
    fun hi => ?_
  exact hi.settle rfl (Kept.seqSend r _) (KeepsSeqInTable.acrossSequence.seqSend r _)
    (fun u hf hu _ => Sound.inv_of_idle { hu.sound with } ht (seqSend_going (t := u) hf))
    fun _ hs => hs.raiseInitFailed

/-! ### The layer, and every instruction -/

/-- An operation accepted by an idle framer, after the map check. -/
theorem Inv.accepted {s : State} (h : Inv s) (ht : s.top = .idle) (op : BitVec 4) (a0 a1 a2 : Byte)
    {body : State → State}
    (hbody : ∀ t, Inv t → t.top = .busy → AtRest t → Inv (body t)) :
    Inv (checked body (accept op a0 a1 a2 s)) :=
  (h.sound.accept op a0 a1 a2).checked rfl rfl fun hi => hbody _ hi rfl (h.idleAtRest ht)

theorem Inv.layerCmd {s : State} (h : Inv s) (ht : s.top = .idle) (byte : Byte) : Inv (layerCmd byte s) :=
  Inv.accepted (s := layerIssue _ s) { h with } ht _ _ _ _ fun _ hi hb _ => hi.byteBody hb false

theorem Inv.layerData {s : State} (h : Inv s) (ht : s.top = .idle) (byte : Byte) : Inv (layerData byte s) :=
  Inv.accepted (s := layerIssue _ s) { h with } ht _ _ _ _ fun _ hi hb _ => hi.byteBody hb true

theorem Inv.layerWait {s : State} (h : Inv s) : Inv (layerWait s) := by
  unfold Machine.layerWait
  split
  · exact { h with }
  · exact h

/-- Every instruction, from an idle framer. -/
theorem Inv.exec {s t : State} (h : Inv s) (ht : s.top = .idle) (i : Instr)
    (he : exec i s = .next t) : Inv t := by
  cases i <;> cases he
  case init => exact h.accepted ht _ _ _ _ fun _ hi hb hr => hi.initBody hb hr
  case cmd => exact h.accepted ht _ _ _ _ fun _ hi hb _ => hi.byteBody hb false
  case data => exact h.accepted ht _ _ _ _ fun _ hi hb _ => hi.byteBody hb true
  case backlight => exact h.accepted ht _ _ _ _ fun _ hi hb hr => hi.backlightBody hb hr.1
  case rdbf => exact h.accepted ht _ _ _ _ fun _ hi hb _ => hi.rdbfBody hb
  case rdac => exact h.accepted ht _ _ _ _ fun _ hi hb _ => hi.rdacBody hb
  case kProbe | kSwitch4 | kFuncset | kDisplayOff | kClear | kEntryLtr | kDisplayOn =>
    exact h.seqAlone ht _
  case clear | home => exact (h.layerCmd ht _).layerWait
  case displayctl d c b => exact Inv.layerCmd (s := displayFlags d c b s) { h with } ht _
  case entrymode ltr auto => exact Inv.layerCmd (s := entryFlags ltr auto s) { h with } ht _
  case setddram | shift | setcgram => exact h.layerCmd ht _

theorem succeeded_top {s : State} (h : succeeded s = true) : s.top = .idle := by
  simp only [succeeded, Bool.and_eq_true, beq_iff_eq] at h
  exact h.1

theorem Inv.layerPattern (l : List Byte) {s : State} (h : Inv s) : Inv (layerPattern l s) := by
  induction l generalizing s with
  | nil => exact h
  | cons b r ih =>
    rw [Machine.layerPattern]
    split
    · exact ih (h.layerData (succeeded_top ‹_›) b)
    · exact h

/-- Every call of the layer, from an idle framer. -/
theorem Inv.runCall {s t : State} (h : Inv s) (ht : s.top = .idle) (c : LayerCall)
    (hc : runCall c s = .next t) : Inv t := by
  cases c
  case clear => exact h.exec ht .clear hc
  case home => exact h.exec ht .home hc
  case setCursor col row =>
    unfold Machine.runCall at hc
    dsimp only at hc
    split at hc
    · exact h.exec ht (.setddram _) hc
    · cases hc
  case display on => exact h.exec ht (.displayctl on s.curOn s.blinkOn) hc
  case cursor on => exact h.exec ht (.displayctl s.dispOn on s.blinkOn) hc
  case blink on => exact h.exec ht (.displayctl s.dispOn s.curOn on) hc
  case entryDir ltr => exact h.exec ht (.entrymode ltr s.autoscroll) hc
  case autoscroll on => exact h.exec ht (.entrymode s.entryLtr on) hc
  case scroll right => exact h.exec ht (.shift right) hc
  case loadGlyph slot pattern =>
    cases hc
    exact Inv.layerPattern _ (Inv.layerCmd (s := takeGlyph pattern s) { h with } ht _)
  case barGraph => cases hc

/-- A fetched word, of an instruction or of none, taken by an idle framer. -/
theorem Inv.fetchStep {s t : State} (h : Inv s) (ht : s.top = .idle) (f : Fetched)
    (hf : fetchStep f s = .next t) : Inv t := by
  unfold Machine.fetchStep at hf
  split at hf
  · exact h.exec ht _ hf
  · cases f <;> cases hf
    exact h.accepted ht _ _ _ _ fun _ hi _ _ => hi.sound.raise _

/-! ### Reset -/

theorem wf_abandon_bus {s : State} (h : Memory.wf s.bus = true) : Memory.wf (abandon s).bus = true := by
  unfold abandon
  split
  · exact h
  · exact (Kept.maybeLandWord _).canonical (by simpa using h)
  · simpa using h
  · exact h

/-- The machine constructed by a reset meets the invariant, whatever ran before (R58). -/
theorem inv_construct (decl : BitVec 32) (pol : Bool) (addr : DevAddr) {s : State}
    (h : Memory.wf s.bus = true) : Inv (construct decl pol addr s) :=
  Sound.inv_of_idle
    { busCanonical := h
      mapIsPerm := fun hm => isPerm_buildMap (by simpa [construct] using hm)
      seqInTable := by simp [construct]
      initOkMapValid := fun hi => by cases hi
      fontFits := fun hf => by cases hf }
    rfl ⟨rfl, rfl⟩

theorem Inv.resetStep {s : State} (h : Inv s) (decl : BitVec 32) (pol : Bool) (addr : DevAddr) :
    Inv (resetStep decl pol addr s) :=
  inv_construct decl pol addr (wf_abandon_bus h.busCanonical)

theorem Inv.idleInput {s t : State} (h : Inv s) (ht : s.top = .idle) (e : HostEvent)
    (he : idleInput e s = .next t) : Inv t := by
  cases e
  case fetch f => exact h.fetchStep ht f he
  case call c => exact h.runCall ht c he
  case reset decl pol addr => cases he; exact h.resetStep decl pol addr
  case wait | powerLoss => cases he; exact Sound.inv_of_idle { h.sound with } ht (h.idleAtRest ht)

/-! ### The small steps of a running operation -/

theorem npdIssue_seq (s : State) : (npdIssue s).seq = s.seq := by
  unfold npdIssue; split <;> rfl

section
variable {s : State} (h : Inv s) (hb : s.top = .busy)
include h hb

omit hb in
theorem Inv.opFinish (hr : AtRest s) : Inv (opFinish s) := by
  unfold Machine.opFinish
  split_ifs
  · exact h.sound.respond hr _ _
  · exact h.sound.respond hr _ _
  · exact h.sound.respond hr _ _

theorem Inv.xferDone (hr : AtRest s) : Inv (xferDone s) := by
  unfold Machine.xferDone
  split_ifs
  · split
    · exact h.issueDelay hb _
    · exact h.seqAdvance hb
  · exact h.opFinish hr

theorem Inv.npdGoOn (hq : s.req = .none) : Inv (npdGoOn s) := by
  have hi : Inv (npdAdvance s) := h.of_kept hb (Kept.npdAdvance s) h.seqInTable
  unfold Machine.npdGoOn
  dsimp only
  split_ifs with hn
  · exact hi.xferDone hb ⟨hn, hq⟩
  · exact hi

theorem Inv.delayDone (hq : s.req = .none) : Inv (delayDone s) := by
  unfold Machine.delayDone
  split_ifs with hn
  · exact h.seqAdvance hb
  · exact h.opFinish ⟨hn, hq⟩
  · exact h.npdGoOn hb hq

theorem Inv.seqIssue (hr : AtRest s) : Inv (seqIssue s) := by
  unfold Machine.seqIssue
  split
  · exact h.xferStart hb _ _ _ _
  · split_ifs
    · exact h.issueDelay hb _
    · exact h.initFinish hb hr

theorem Inv.opStart : Inv (opStart s) := by
  unfold Machine.opStart
  split_ifs
  · exact h.initStart hb
  · exact h.xferStart hb _ _ _ _
  · exact h.xferStart hb _ _ _ _
  · exact h.backlightWord.issueWrite hb
  · exact h.xferStart hb _ _ _ _
  · exact h.xferStart hb _ _ _ _
  · exact h.sound.raise _

theorem Inv.goOn (hq : s.req = .none) : Inv (goOn s) := by
  unfold Machine.goOn
  split_ifs with hn
  · exact h.seqIssue hb ⟨hn, hq⟩
  · exact h.opStart hb
  · exact h.of_kept hb (Kept.npdIssue s) ((npdIssue_seq s).symm ▸ h.seqInTable)

omit hb in
theorem Inv.opAbort : Inv (opAbort s) := by
  unfold Machine.opAbort
  split_ifs
  · exact h.sound.raiseInitFailed
  · exact h.sound.raise _

end

/-- A small step that goes on: the next request, or what follows the answer to the outstanding one (R37). -/
theorem smallStep_going {s t : State} (h : smallStep s = .going t) :
    (s.req = .none ∧ t = goOn s) ∨
    (∃ u, receiveWrite s = .going u ∧ t = writeDone u) ∨
    (∃ u, receiveRead s = .going u ∧ t = npdGoOn u) ∨
    t = delayDone (endDelay s) := by
  unfold smallStep at h
  split at h
  next hq => cases h; exact .inl ⟨hq, rfl⟩
  next => obtain ⟨u, hu, ht⟩ := Flow.andThen_eq_going.1 h; cases ht; exact .inr (.inl ⟨u, hu, rfl⟩)
  next => obtain ⟨u, hu, ht⟩ := Flow.andThen_eq_going.1 h; cases ht; exact .inr (.inr (.inl ⟨u, hu, rfl⟩))
  next =>
    obtain ⟨u, hu, ht⟩ := Flow.andThen_eq_going.1 h
    cases ht
    rw [receiveDelay_going hu]
    exact .inr (.inr (.inr rfl))

/-- A small step that aborts: a write or a read answered `fail`. -/
theorem smallStep_aborted {s t : State} (h : smallStep s = .aborted t) :
    receiveWrite s = .aborted t ∨ receiveRead s = .aborted t := by
  unfold smallStep at h
  split at h
  next => cases h
  next => cases hw : receiveWrite s <;> rw [hw] at h <;> cases h; exact .inl rfl
  next => cases hr : receiveRead s <;> rw [hr] at h <;> cases h; exact .inr rfl
  next => cases hd : receiveDelay s <;> rw [hd] at h <;> cases h; exact absurd hd (receiveDelay_not_aborted _ _)

theorem Inv.receiveWrite {s t : State} (h : Inv s) (hb : s.top = .busy)
    (ht : (receiveWrite s).state = t) : Inv t ∧ t.top = .busy :=
  h.running hb (Kept.receiveWrite s) (KeepsSeqInTable.acrossSequence.receiveWrite s) ht

theorem Inv.receiveRead {s t : State} (h : Inv s) (hb : s.top = .busy)
    (ht : (receiveRead s).state = t) : Inv t ∧ t.top = .busy :=
  h.running hb (Kept.receiveRead s) (KeepsSeqInTable.acrossSequence.receiveRead s) ht

theorem Inv.endDelay {s : State} (h : Inv s) (hb : s.top = .busy) : Inv (endDelay s) :=
  h.of_kept hb (Kept.endDelay s) h.seqInTable

theorem Inv.busyStep {s t : State} (h : Inv s) (hb : s.top = .busy) (hs : busyStep s = .next t) :
    Inv t := by
  unfold Machine.busyStep at hs
  split at hs
  next u hu =>
    cases hs
    rcases smallStep_going hu with ⟨hq, rfl⟩ | ⟨v, hv, rfl⟩ | ⟨v, hv, rfl⟩ | rfl
    · exact h.goOn hb hq
    · obtain ⟨hi, hbv⟩ := h.receiveWrite hb (congrArg Flow.state hv)
      exact hi.issueDelay hbv _
    · obtain ⟨hi, hbv⟩ := h.receiveRead hb (congrArg Flow.state hv)
      exact hi.npdGoOn hbv (receiveRead_going_req hv)
    · exact (h.endDelay hb).delayDone hb rfl
  next u hu =>
    cases hs
    rcases smallStep_aborted hu with hv | hv
    · exact (h.receiveWrite hb (congrArg Flow.state hv)).1.opAbort
    · exact (h.receiveRead hb (congrArg Flow.state hv)).1.opAbort
  next => split at hs <;> cases hs

/-! ### One step -/

theorem step_reset {s : State} {decl : BitVec 32} {pol : Bool} {addr : DevAddr} {rest : List HostEvent}
    (h : s.hostIn = .reset decl pol addr :: rest) :
    step s = .next (resetStep decl pol addr { s with hostIn := rest }) := by
  simp only [step, h]

theorem step_busy {s : State} (hb : s.top = .busy) (hn : Expect.NoResetNext s) : step s = busyStep s := by
  unfold step
  split
  next hin => exact absurd hin (hn _ _ _ _)
  next => rfl
  next ht => rw [hb] at ht; cases ht
  next ht => rw [hb] at ht; cases ht

theorem step_idle_nil {s : State} (ht : s.top = .idle) (h : s.hostIn = []) :
    step s = .next (idleStep s) := by
  simp only [step, h, ht]

theorem step_idle_cons {s : State} {e : HostEvent} {rest : List HostEvent} (ht : s.top = .idle)
    (h : s.hostIn = e :: rest) : step s = idleInput e { s with hostIn := rest } := by
  cases e <;> simp only [step, h, ht, idleInput]

/-- The four kinds of step (R53, R343). -/
theorem step_cases (s : State) :
    (∃ decl pol addr rest, s.hostIn = .reset decl pol addr :: rest ∧
      step s = .next (resetStep decl pol addr { s with hostIn := rest })) ∨
    (s.top = .busy ∧ step s = busyStep s) ∨
    (s.top = .idle ∧ step s = .next (idleStep s)) ∨
    (∃ e rest, s.top = .idle ∧ s.hostIn = e :: rest ∧ step s = idleInput e { s with hostIn := rest }) := by
  by_cases hn : Expect.NoResetNext s
  · obtain ht | ht : s.top = .busy ∨ s.top = .idle := by cases s.top <;> simp
    · exact .inr (.inl ⟨ht, step_busy ht hn⟩)
    · cases hin : s.hostIn with
      | nil => exact .inr (.inr (.inl ⟨ht, step_idle_nil ht hin⟩))
      | cons e rest => exact .inr (.inr (.inr ⟨e, rest, ht, rfl, step_idle_cons ht hin⟩))
  · simp only [Expect.NoResetNext, not_forall, not_not] at hn
    obtain ⟨decl, pol, addr, rest, hin⟩ := hn
    exact .inl ⟨decl, pol, addr, rest, hin, step_reset hin⟩

end Sys2Proof.Machine

open Sys2Proof Sys2Proof.Machine

/-- Settles O53: the machine after reset is idle, at rest, with an empty memory and the map of program P1. -/
theorem invHoldsAtReset : Obligations.InvHoldsAtReset :=
  Sound.inv_of_idle
    { busCanonical := rfl
      mapIsPerm := fun _ => by decide
      seqInTable := by decide
      initOkMapValid := fun h => by cases h
      fontFits := fun h => by cases h }
    rfl ⟨rfl, rfl⟩

/-- Settles O54, by the four kinds of step: a reset constructs a machine that meets the invariant from any
state; a busy framer makes one small step; an idle one takes the host's next input, or none. -/
theorem invIsKeptByEveryStep : Obligations.InvIsKeptByEveryStep := by
  intro s t h hs
  rcases step_cases s with ⟨decl, pol, addr, rest, -, he⟩ | ⟨hb, he⟩ | ⟨ht, he⟩ | ⟨e, rest, ht, -, he⟩ <;>
    rw [he] at hs
  · cases hs
    exact Inv.resetStep (s := { s with hostIn := rest }) { h with } decl pol addr
  · exact h.busyStep hb hs
  · cases hs
    exact Sound.inv_of_idle { h.sound with } ht (h.idleAtRest ht)
  · exact Inv.idleInput (s := { s with hostIn := rest }) { h with } ht e hs
end

section
/-! PROOFS. What a command word does as a whole, and its one response (O44). -/

namespace Sys2Proof.Machine

/-! ### A command word by its opcode -/

/-- What an accepted operation does after the map check, whole, told by `OP` (R96, R98): `opStart` is its
first action. -/
def opBody (s : State) : State :=
  if s.op = opInit then initBody s
  else if s.op = opCmd then byteBody false s
  else if s.op = opData then byteBody true s
  else if s.op = opBacklight then backlightBody s
  else if s.op = opRdbf then rdbfBody s
  else if s.op = opRdac then rdacBody s
  else raise .illegalOp s

theorem checked_congr {s : State} {b c : State → State} (h : b s = c s) : checked b s = checked c s := by
  simp only [checked, h]

/-- A fetched command word, of an instruction or reserved: accepted, then the body its opcode names. -/
theorem fetchStep_port (w : CmdWord) (s : State) :
    fetchStep (.port w) s =
      .next (checked opBody (accept (cmdOp w) (cmdA0 w) (cmdA1 w) (cmdA2 w) s)) := by
  have named {op : BitVec 4} {body : State → State} (h : cmdOp w = op)
      (hb : ∀ t : State, t.op = op → opBody t = body t) :
      checked opBody (accept (cmdOp w) (cmdA0 w) (cmdA1 w) (cmdA2 w) s) =
        checked body (accept op (cmdA0 w) (cmdA1 w) (cmdA2 w) s) := by
    rw [h]; exact checked_congr (hb _ rfl)
  rw [fetchStep, show decode (.port w) = decodePort w from rfl, decodePort]
  split_ifs with h1 h2 h3 h4 h5 h6
  · rw [named h1 (body := initBody) fun t ht => by simp [opBody, ht]]; rfl
  · rw [named h2 (body := byteBody false) fun t ht => by simp [opBody, ht, opInit, opCmd]]; rfl
  · rw [named h3 (body := byteBody true) fun t ht => by simp [opBody, ht, opInit, opCmd, opData]]; rfl
  · rw [named h4 (body := backlightBody) fun t ht => by
      simp [opBody, ht, opInit, opCmd, opData, opBacklight]]; rfl
  · rw [named h5 (body := rdbfBody) fun t ht => by
      simp [opBody, ht, opInit, opCmd, opData, opBacklight, opRdbf]]; rfl
  · rw [named h6 (body := rdacBody) fun t ht => by
      simp [opBody, ht, opInit, opCmd, opData, opBacklight, opRdbf, opRdac]]; rfl
  · rw [named rfl (body := raise .illegalOp) fun t ht => by simp [opBody, ht, h1, h2, h3, h4, h5, h6]]; rfl

/-! ### Events -/

/-- The trace grew by events none of which is a response. -/
def Quiet (s t : State) : Prop :=
  ∃ ev : List Event, (∀ e ∈ ev, e.isResponse = false) ∧ t.trace = s.trace ++ ev

theorem Quiet.of_trace_eq {s t : State} (h : t.trace = s.trace) : Quiet s t := ⟨[], by simp, by simp [h]⟩

/-- Calls, waits and the sequencer present no response. -/
theorem Quiet.acrossSequence : AcrossSequence Quiet where
  refl _ := .of_trace_eq rfl
  trans := by
    rintro a b c ⟨e, he, hb⟩ ⟨g, hg, hc⟩
    exact ⟨e ++ g, fun x hx => (List.mem_append.1 hx).elim (he x) (hg x), by rw [hc, hb, List.append_assoc]⟩
  putWord _ _ := .of_trace_eq rfl
  issueWrite s := ⟨[.write s.word], by simp [Event.isResponse], rfl⟩
  issueRead _ := ⟨[.read], by simp [Event.isResponse], rfl⟩
  issueDelay n _ := ⟨[.delay n], by simp [Event.isResponse], rfl⟩
  requestDone s := .of_trace_eq (by simp)
  landWord _ := .of_trace_eq rfl
  maybeLandWord _ := .of_trace_eq rfl
  latchRead _ _ := .of_trace_eq (by simp)
  endDelay _ := .of_trace_eq rfl
  npdAdvance _ := .of_trace_eq rfl
  xferStart _ _ _ _ _ := .of_trace_eq rfl
  seqAdvance s := .of_trace_eq (by simp [seqAdvance])

/-- The framer presents a response, `STATUS` and `RDATA`, and does nothing else outwards (R54, R97). -/
def Responds (s t : State) : Prop :=
  t.top = .idle ∧ t.rspValid = true ∧ t.trace = s.trace ++ [Event.rsp t.status t.rdata]

theorem responds_respond (st : Status) (d : Byte) (s : State) : Responds s (respond st d s) := ⟨rfl, rfl, rfl⟩
theorem responds_raise (x : Status) (s : State) : Responds s (raise x s) := ⟨rfl, rfl, rfl⟩
theorem responds_raiseInitFailed (s : State) : Responds s (raiseInitFailed s) := ⟨rfl, rfl, rfl⟩
theorem responds_initFinish (s : State) : Responds s (initFinish s) := ⟨rfl, rfl, rfl⟩

/-- From `s` on there is one response, the last event, or the framer waits for ever with none (R54, R64). -/
def RespondsOnce (s t : State) : Prop :=
  ∃ ev : List Event, (∀ e ∈ ev, e.isResponse = false) ∧
    ((t.top = .idle ∧ t.rspValid = true ∧ t.trace = s.trace ++ ev ++ [Event.rsp t.status t.rdata]) ∨
      (t.top = .busy ∧ t.rspValid = false ∧ t.trace = s.trace ++ ev))

theorem Responds.once {s u t : State} (hq : Quiet s u) (h : Responds u t) : RespondsOnce s t := by
  obtain ⟨ev, hev, he⟩ := hq
  obtain ⟨ht, hv, htr⟩ := h
  exact ⟨ev, hev, .inl ⟨ht, hv, by rw [htr, he]⟩⟩

/-- An operation that ends by its finish, its abort, or the wait for ever. -/
theorem RespondsOnce.settle {s u : State} {f : Flow} {finish onAbort : State → State} (hu : Quiet s u)
    (hb : u.top = .busy) (hv : u.rspValid = false) (k : Kept u f.state) (hq : Quiet u f.state)
    (hfin : ∀ t, Responds t (finish t)) (habort : ∀ t, Responds t (onAbort t)) :
    RespondsOnce s ((f.andThen fun t => .going (finish t)).settle onAbort) := by
  have hs := Quiet.acrossSequence.trans _ _ _ hu hq
  cases f with
  | going t => exact (hfin t).once hs
  | aborted t => exact (habort t).once hs
  | waiting t =>
    obtain ⟨ev, hev, he⟩ := hs
    exact ⟨ev, hev, .inr ⟨k.top.trans hb, k.rspValid.trans hv, he⟩⟩

section
variable {s : State} (hb : s.top = .busy) (hv : s.rspValid = false)
include hb hv

theorem xferAnswered_respondsOnce (rs rw : Bool) (v : Byte) (len : Bool) {finish : State → State}
    (hfin : ∀ t, Responds t (finish t)) :
    RespondsOnce s (((xfer rs rw v len s).andThen fun t => .going (finish t)).settle (raise .transportError)) :=
  .settle (.of_trace_eq rfl) hb hv (Kept.xfer rs rw v len s) (Quiet.acrossSequence.xfer rs rw v len s)
    hfin (responds_raise _)

theorem initBody_respondsOnce : RespondsOnce s (initBody s) :=
  .settle (u := initStart s) (.of_trace_eq rfl) hb hv (Kept.seqRun 10 _) (Quiet.acrossSequence.seqRun 10 _)
    responds_initFinish responds_raiseInitFailed

theorem backlightBody_respondsOnce : RespondsOnce s (backlightBody s) :=
  .settle (u := backlightWord s) (.of_trace_eq rfl) hb hv (Kept.acrossCalls.writeThenDelay _ _)
    (Quiet.acrossSequence.writeThenDelay _ _) (responds_respond _ _) (responds_raise _)

/-- Every operation, the reserved opcodes too. -/
theorem opBody_respondsOnce : RespondsOnce s (opBody s) := by
  unfold opBody
  split_ifs
  · exact initBody_respondsOnce hb hv
  · exact xferAnswered_respondsOnce hb hv _ _ _ _ (responds_respond _ _)
  · exact xferAnswered_respondsOnce hb hv _ _ _ _ (responds_respond _ _)
  · exact backlightBody_respondsOnce hb hv
  · exact xferAnswered_respondsOnce hb hv _ _ _ _ fun t => responds_respond _ _ t
  · exact xferAnswered_respondsOnce hb hv _ _ _ _ fun t => responds_respond _ _ t
  · exact (responds_raise _ s).once (.of_trace_eq rfl)

end

/-- The map check answers once too (R305). -/
theorem checked_respondsOnce {s : State} {body : State → State} (h : RespondsOnce s (body s)) :
    RespondsOnce s (checked body s) := by
  unfold checked
  split_ifs
  · exact h
  · exact (responds_raise _ s).once (.of_trace_eq rfl)

end Sys2Proof.Machine

open Sys2Proof Sys2Proof.Machine

/-- Settles O44: the operation of every opcode is a flow without responses, then one response or the wait for
ever. -/
theorem oneResponsePerCommand : Obligations.OneResponsePerCommand := by
  intro w s t h
  rw [fetchStep_port] at h
  cases h
  exact checked_respondsOnce (s := accept _ _ _ _ s) (opBody_respondsOnce rfl rfl)
end

section
/-! PROOFS. One step: what it takes of the input, and what a reset leaves (O56, O57, O58, O59). -/

namespace Sys2Proof.Machine

/-! ### The small steps take no input of the host -/

theorem opFinish_hostIn (s : State) : (opFinish s).hostIn = s.hostIn := by
  unfold opFinish
  split_ifs <;> rfl

theorem xferDone_hostIn (s : State) : (xferDone s).hostIn = s.hostIn := by
  unfold xferDone
  split_ifs
  · split
    · rfl
    · exact (Kept.seqAdvance s).hostIn
  · exact opFinish_hostIn s

theorem npdGoOn_hostIn (s : State) : (npdGoOn s).hostIn = s.hostIn := by
  unfold npdGoOn
  dsimp only
  split_ifs
  · exact xferDone_hostIn _
  · rfl

theorem delayDone_hostIn (s : State) : (delayDone s).hostIn = s.hostIn := by
  unfold delayDone
  split_ifs
  · exact (Kept.seqAdvance s).hostIn
  · exact opFinish_hostIn s
  · exact npdGoOn_hostIn s

theorem seqIssue_hostIn (s : State) : (seqIssue s).hostIn = s.hostIn := by
  unfold seqIssue
  split
  · rfl
  · split_ifs <;> rfl

theorem opStart_hostIn (s : State) : (opStart s).hostIn = s.hostIn := by
  unfold opStart
  split_ifs <;> rfl

theorem goOn_hostIn (s : State) : (goOn s).hostIn = s.hostIn := by
  unfold goOn
  split_ifs
  · exact seqIssue_hostIn s
  · exact opStart_hostIn s
  · exact (Kept.npdIssue s).hostIn

theorem opAbort_hostIn (s : State) : (opAbort s).hostIn = s.hostIn := by
  unfold opAbort
  split_ifs <;> rfl

theorem busyStep_hostIn {s t : State} (h : busyStep s = .next t) : t.hostIn = s.hostIn := by
  unfold busyStep at h
  split at h
  next u hu =>
    cases h
    rcases smallStep_going hu with ⟨-, rfl⟩ | ⟨v, hv, rfl⟩ | ⟨v, hv, rfl⟩ | rfl
    · exact goOn_hostIn s
    · exact (Flow.rel_going hv (Kept.receiveWrite s)).hostIn
    · exact (npdGoOn_hostIn v).trans (Flow.rel_going hv (Kept.receiveRead s)).hostIn
    · exact delayDone_hostIn (endDelay s)
  next u hu =>
    cases h
    rw [opAbort_hostIn]
    rcases smallStep_aborted hu with hv | hv
    · simpa only [hv, Flow.aborted_state] using (Kept.receiveWrite s).hostIn
    · simpa only [hv, Flow.aborted_state] using (Kept.receiveRead s).hostIn
  next => split at h <;> cases h

/-! ### What a reset leaves of an abandoned request -/

/-- Dropping an outstanding request adds no event and takes no input; the parameters stand. -/
theorem abandon_frame (s : State) :
    (abandon s).prm = s.prm ∧ (abandon s).hostIn = s.hostIn ∧ (abandon s).trace = s.trace := by
  unfold abandon
  split <;> simp

end Sys2Proof.Machine

open Sys2Proof Sys2Proof.Machine

/-- Settles O57: a busy framer's step is a small step of the running operation, which takes no input. -/
theorem busyFramerHoldsCommandsOff : Obligations.BusyFramerHoldsCommandsOff := by
  intro s t hb hn hs
  rw [step_busy hb hn] at hs
  exact ⟨by simp [cmdReady, hb], busyStep_hostIn hs⟩

/-- Settles O58: the step is a reset, which constructs the machine from the given inputs. -/
theorem resetLeavesTheseValues : Obligations.ResetLeavesTheseValues := by
  intro decl pol addr rest s h
  obtain ⟨hprm, hin, htr⟩ := abandon_frame { s with hostIn := rest }
  exact ⟨_, step_reset h, hin, htr, rfl, rfl, by cases pol <;> rfl, rfl, congrArg Params.blReset hprm, rfl, rfl,
    rfl, rfl, rfl, rfl, rfl, rfl⟩

/-- Settles O56: an idle framer takes its next input, and a fetched word that decodes is executed. -/
theorem stepRunsTheDecodedInstruction : Obligations.StepRunsTheDecodedInstruction := by
  intro f i rest s ht hin hd
  rw [step_idle_cons ht hin]
  simp only [idleInput, fetchStep, hd]

/-- Settles O59: the Pin Mapper's loop on 0x43210567 gives the backpack's map, and every other register its
reset value. -/
theorem resetStateIsConstructed : Obligations.ResetStateIsConstructed := by
  have hb : buildMap 0x43210567#32 = ⟨0xFF#8, false, #v[3, 4, 5, 6, 7, 2, 1, 0]⟩ := by decide
  unfold Obligations.ResetStateIsConstructed construct
  rw [hb]
  rfl
end

section
/-! PROOFS. The small steps of R37 reach what each operation's meaning answers (O55): each piece of an
operation, a flow, is tracked by the small steps, and the pieces are put together as the operation does. -/

namespace Sys2Proof.Machine

/-! ### Reaching a state by small steps -/

/-- Some number of small steps leads from `s` to `t`. -/
def Reaches (s t : State) : Prop := ∃ n : Nat, smallRun n s = t

theorem Reaches.refl (s : State) : Reaches s s := ⟨0, rfl⟩

theorem smallRun_going (n : Nat) {s u : State} (hb : s.top = .busy) (h : smallStep s = .going u) :
    smallRun (n + 1) s = smallRun n u := by rw [smallRun, hb, h]

theorem Reaches.of_going {s t u : State} (hb : s.top = .busy) (h : smallStep s = .going u)
    (hr : Reaches u t) : Reaches s t := by
  obtain ⟨n, hn⟩ := hr
  exact ⟨n + 1, by rw [smallRun_going n hb h, hn]⟩

theorem Reaches.of_aborted {s u : State} (hb : s.top = .busy) (h : smallStep s = .aborted u) :
    Reaches s (opAbort u) := ⟨1, by rw [smallRun, hb, h]; rfl⟩

theorem Reaches.of_waiting {s u : State} (hb : s.top = .busy) (h : smallStep s = .waiting u) :
    Reaches s u := ⟨1, by rw [smallRun, hb, h]⟩

/-! ### Tracking a flow -/

/-- The small steps from `s` do what the flow does: where it goes on to `u` they come to `next u`, a failed
call ends the operation, and silence leaves them waiting in the same state. -/
def Tracks (s : State) (next : State → State) : Flow → Prop
  | .going u => ∀ t, Reaches (next u) t → Reaches s t
  | .aborted u => Reaches s (opAbort u)
  | .waiting u => Reaches s u

theorem Tracks.going (next : State → State) (u : State) : Tracks (next u) next (.going u) := fun _ h => h

theorem Tracks.andThen {s : State} {next next' : State → State} {f : Flow} {g : State → Flow}
    (h : Tracks s next f) (hg : ∀ u, f = .going u → Tracks (next u) next' (g u)) :
    Tracks s next' (f.andThen g) := by
  cases f with
  | going u =>
    have hu := hg u rfl
    rw [Flow.going_andThen]
    cases hgu : g u <;> rw [hgu] at hu
    case going v => exact fun t ht => h t (hu t ht)
    case aborted v => exact h _ hu
    case waiting v => exact h _ hu
  | aborted u => exact h
  | waiting u => exact h

theorem Tracks.congr {s : State} {next next' : State → State} {f : Flow} (h : Tracks s next f)
    (he : ∀ u, f = .going u → next u = next' u) : Tracks s next' f := by
  cases f with
  | going u => exact fun t ht => h t (by rwa [he u rfl])
  | aborted u => exact h
  | waiting u => exact h

/-- A small step that goes on by itself may come first. -/
theorem Tracks.of_going {s u : State} {next : State → State} {f : Flow} (hb : s.top = .busy)
    (hs : smallStep s = .going u) (h : Tracks u next f) : Tracks s next f := by
  cases f with
  | going v => exact fun t ht => Reaches.of_going hb hs (h t ht)
  | aborted v => exact Reaches.of_going hb hs h
  | waiting v => exact Reaches.of_going hb hs h

/-- A small step tracks the flow of the answer it receives. -/
theorem Tracks.of_smallStep {s : State} {next : State → State} {f : Flow} (hb : s.top = .busy)
    (h : smallStep s = f.andThen fun t => .going (next t)) : Tracks s next f := by
  cases f with
  | going u => exact fun t ht => Reaches.of_going hb h ht
  | aborted u => exact Reaches.of_aborted hb h
  | waiting u => exact Reaches.of_waiting hb h

/-- A tracked flow, ended by the operation's finish and abort, is reached. -/
theorem Tracks.settle {s : State} {next finish onAbort : State → State} {f : Flow} (h : Tracks s next f)
    (hfin : ∀ u, f = .going u → Reaches (next u) (finish u))
    (habort : ∀ u, f = .aborted u → opAbort u = onAbort u) :
    Reaches s ((f.andThen fun t => .going (finish t)).settle onAbort) := by
  cases f with
  | going u => exact h _ (hfin u rfl)
  | aborted u =>
    rw [Flow.aborted_andThen, Flow.aborted_settle, ← habort u rfl]
    exact h
  | waiting u => exact h

/-! ### Calls and waits -/

theorem smallStep_goOn {s : State} (h : s.req = .none) : smallStep s = .going (goOn s) := by
  simp only [smallStep, h]

theorem tracks_delay {s : State} (hb : s.top = .busy) (n : Micros) :
    Tracks (issueDelay n s) delayDone (delay n s) := .of_smallStep hb rfl

theorem npdWait_congr {s t : State} (h : SameDriver s t) : npdWait t = npdWait s := by
  simp only [npdWait, h.npd, h.prm]

/-- A write and the wait of the driver's state after it. -/
theorem tracks_writeThenDelay {s : State} (hb : s.top = .busy) {n : Micros} (hn : npdWait s = n) :
    Tracks (issueWrite s) delayDone ((receiveWrite (issueWrite s)).andThen (delay n)) := by
  have hw : Tracks (issueWrite s) writeDone (receiveWrite (issueWrite s)) := .of_smallStep hb rfl
  refine hw.andThen fun u hu => ?_
  have hsame := Flow.rel_going hu (SameDriver.acrossCalls.receiveWrite _)
  have hbu := (Flow.rel_going hu (Kept.receiveWrite _)).top.trans hb
  rw [writeDone, npdWait_congr hsame, show npdWait (issueWrite s) = n from hn]
  exact tracks_delay hbu n

/-! ### The driver -/

/-- After a row: out of the transfer at `DONE`, else the next row. -/
def afterRow (t : State) : State := if t.npd = .done then xferDone t else t

theorem npdIssue_write {s : State} (h : s.npd.Writes) :
    npdIssue s = issueWrite (putWord (rowWord s) s) := by
  unfold npdIssue rowWord clearEnable
  rcases h with h | h | h | h <;> simp only [h]

theorem npdIssue_read {s : State} (h : s.npd = .sampleHigh ∨ s.npd = .sampleLow) :
    npdIssue s = issueRead s := by
  unfold npdIssue
  rcases h with h | h <;> simp only [h]

theorem tracks_npdAction {s : State} (hb : s.top = .busy) (hn : s.npd ≠ .done) :
    Tracks (npdIssue s) npdGoOn (npdAction s) := by
  rcases Npd.writes_or_samples hn with hw | hr
  · rw [npdIssue_write hw, npdAction_write hw]
    refine Tracks.congr (tracks_writeThenDelay (s := putWord (rowWord s) s) hb rfl) fun u hu => ?_
    have hsame := Flow.rel_going hu (SameDriver.acrossCalls.writeThenDelay _ _)
    exact if_neg (hsame.npd.trans_ne hn)
  · rw [npdIssue_read hr, npdAction_read hr]
    exact .of_smallStep hb rfl

theorem tracks_npdStep {s : State} (hb : s.top = .busy) (hq : s.req = .none) (hn : s.npd ≠ .done) :
    Tracks s afterRow (npdStep s) := by
  have hgo : goOn s = npdIssue s := if_neg hn
  refine .of_going hb (smallStep_goOn hq) ?_
  rw [hgo]
  exact (tracks_npdAction hb hn).andThen fun u _ => Tracks.going afterRow (npdAdvance u)

theorem tracks_npdRun {n : Nat} {s : State} (hb : s.top = .busy) (hq : s.req = .none)
    (hn : s.npd ≠ .done) (hl : rowsLeft s.prm.rdSample s.npd ≤ n) : Tracks s xferDone (npdRun n s) := by
  induction n generalizing s with
  | zero =>
    have := rowsLeft_npdNext s.prm.rdSample s.rw s.len hn
    omega
  | succ n ih =>
    rw [npdRun, if_neg hn]
    refine (tracks_npdStep hb hq hn).andThen fun u hu => ?_
    unfold afterRow
    split_ifs with hd
    · rw [npdRun_done n hd]
      exact Tracks.going xferDone u
    · have hlt := rowsLeft_npdStep hn hu
      exact ih ((Flow.rel_going hu (Kept.npdStep s)).top.trans hb) (npdStep_going hn hu).1 hd (by omega)

theorem tracks_xfer {s : State} (hb : s.top = .busy) (hq : s.req = .none) (rs rw : Bool) (v : Byte)
    (len : Bool) : Tracks (xferStart rs rw v len s) xferDone (xfer rs rw v len s) :=
  tracks_npdRun (s := xferStart rs rw v len s) hb hq (by simp) (Nat.le_refl 6)

/-! ### The sequencer -/

theorem seqRow_congr {s t : State} (k : Kept s t) (hq : SameSeq s t) : seqRow t = seqRow s := by
  have h : t.seq = s.seq := hq
  simp only [seqRow, kProbeRow, probeDelay, kClearRow, h, k.prm, k.rows, k.font]

theorem seqRow_none_of_lt {s : State} (h : 9#4 < s.seq) : seqRow s = none := by
  have : 9 < s.seq.toNat := h
  unfold seqRow
  split
  on_goal 10 => rfl
  all_goals omega

/-- Steps 1 to 9 make a transfer, so a step without one before step 10 is step 0 (R204). -/
theorem seq_zero_of_seqRow_none {s : State} (h : seqRow s = none) (hq : s.seq ≤ 9#4) : s.seq = 0#4 := by
  have h9 : s.seq.toNat ≤ 9 := hq
  have h0 : s.seq.toNat = 0 := by
    by_contra hne
    unfold seqRow at h
    split at h
    on_goal 10 => simp only [imp_false] at *; omega
    all_goals cases h
  exact BitVec.eq_of_toNat_eq h0

/-- INIT in a step of its own, at rest between two requests. -/
structure Sequencing (s : State) : Prop where
  busy : s.top = .busy
  op : s.op = opInit
  rest : AtRest s

theorem Sequencing.goOn_eq {s : State} (h : Sequencing s) : goOn s = seqIssue s := by
  rw [goOn, if_pos h.rest.1, if_pos h.op]

theorem Sequencing.tracks_delay {s : State} (h : Sequencing s) (n : Micros) :
    Tracks (issueDelay n s) seqAdvance (delay n s) := by
  refine (Machine.tracks_delay h.busy n).congr fun u hu => ?_
  have k := Flow.rel_going hu (Kept.delay n s)
  rw [delayDone, if_pos (h.rest.delay hu).1, if_pos (k.op.trans h.op)]

/-- After a step's transfer: its own delay, if it has one, then the next step (R204). -/
theorem Sequencing.tracks_ownDelay {s : State} (h : Sequencing s) {r : SeqRow} (hr : seqRow s = some r) :
    Tracks (xferDone s) seqAdvance (ownDelay r.own s) := by
  rw [xferDone, if_pos h.op, hr, Option.bind_some]
  cases r.own with
  | some n => exact h.tracks_delay n
  | none => exact Tracks.going seqAdvance s

theorem Sequencing.tracks_seqAction {s : State} (h : Sequencing s) (hq : s.seq ≤ 9#4) :
    Tracks s seqAdvance (seqAction s) := by
  refine .of_going h.busy (smallStep_goOn h.rest.2) ?_
  rw [h.goOn_eq]
  unfold seqIssue seqAction
  cases hrow : seqRow s with
  | some r =>
    refine (tracks_xfer h.busy h.rest.2 _ _ _ _).andThen fun u hu => ?_
    have k := Flow.rel_going hu (Kept.xfer _ _ _ _ s)
    have hsu := Flow.rel_going hu (SameSeq.acrossTransfers.xfer _ _ _ _ s)
    exact Sequencing.tracks_ownDelay ⟨k.top.trans h.busy, k.op.trans h.op, xfer_going hu⟩
      ((seqRow_congr k hsu).trans hrow)
  | none =>
    dsimp only
    rw [if_pos (seq_zero_of_seqRow_none hrow hq), if_pos (seq_zero_of_seqRow_none hrow hq)]
    exact h.tracks_delay _

theorem Sequencing.seqStep {s u : State} (h : Sequencing s) (hu : seqAction s = .going u) :
    Sequencing (seqAdvance u) := by
  have k := Kept.trans _ _ _ (Flow.rel_going hu (Kept.seqAction s)) (Kept.seqAdvance u)
  exact ⟨k.top.trans h.busy, k.op.trans h.op, (h.rest.seqAction hu).seqAdvance⟩

theorem Sequencing.tracks_seqRun (n : Nat) {s : State} (h : Sequencing s) : Tracks s id (seqRun n s) := by
  induction n generalizing s with
  | zero => exact Tracks.going id s
  | succ n ih =>
    rw [seqRun]
    split_ifs with hq
    · exact (h.tracks_seqAction hq).andThen fun u hu => ih (h.seqStep hu)
    · exact Tracks.going id s

theorem Sequencing.seqRun {n : Nat} {s t : State} (h : Sequencing s) (hr : seqRun n s = .going t) :
    Sequencing t := by
  have k := Flow.rel_going hr (Kept.seqRun n s)
  exact ⟨k.top.trans h.busy, k.op.trans h.op, h.rest.seqRun hr⟩

theorem nextSeq_toNat {q : BitVec 4} (h : q ≤ 9#4) : (nextSeq q).toNat = q.toNat + 1 := by
  revert q; decide

/-- With enough rounds the sequencer goes on past step 9 (R201). -/
theorem seqRun_going_seq {n : Nat} {s t : State} (hn : 10 ≤ n + s.seq.toNat) (h : seqRun n s = .going t) :
    9#4 < t.seq := by
  induction n generalizing s with
  | zero => cases h; exact (by omega : 9 < t.seq.toNat)
  | succ n ih =>
    rw [seqRun] at h
    split_ifs at h with hq
    · obtain ⟨u, hu, hrun⟩ := Flow.andThen_eq_going.1 h
      have hsu : u.seq = s.seq := Flow.rel_going hu (SameSeq.acrossTransfers.seqAction s)
      exact ih (by rw [seqAdvance_seq, hsu, nextSeq_toNat hq]; omega) hrun
    · cases h; exact BitVec.not_le.1 hq

/-- Step 10 (R211). -/
theorem Sequencing.reaches_initFinish {s : State} (h : Sequencing s) (hq : 9#4 < s.seq) :
    Reaches s (initFinish s) := by
  refine .of_going h.busy (smallStep_goOn h.rest.2) ?_
  have h0 : s.seq ≠ 0#4 := fun e => by rw [e] at hq; exact absurd hq (by decide)
  rw [h.goOn_eq, seqIssue, seqRow_none_of_lt hq]
  dsimp only
  rw [if_neg h0]
  exact .refl _

/-! ### The operations -/

theorem opAbort_init {s : State} (h : s.op = opInit) : opAbort s = raiseInitFailed s := if_pos h
theorem opAbort_other {s : State} (h : s.op ≠ opInit) : opAbort s = raise .transportError s := if_neg h

theorem reaches_initBody {s : State} (h : Sequencing s) : Reaches (initStart s) (initBody s) := by
  have hi : Sequencing (initStart s) := ⟨h.busy, h.op, h.rest⟩
  refine (hi.tracks_seqRun 10).settle (fun u hu => ?_) fun u hu => ?_
  · exact (hi.seqRun hu).reaches_initFinish (seqRun_going_seq (Nat.le_refl 10) hu)
  · have k := Kept.seqRun 10 (initStart s)
    rw [hu] at k
    exact opAbort_init (k.op.trans h.op)

/-- An operation that is one transfer and its response. -/
theorem reaches_xferAnswered {s : State} (hb : s.top = .busy) (hq : s.req = .none) (ho : s.op ≠ opInit)
    (rs rw : Bool) (v : Byte) (len : Bool) {finish : State → State}
    (hfin : ∀ u, u.op = s.op → opFinish u = finish u) :
    Reaches (xferStart rs rw v len s)
      (((xfer rs rw v len s).andThen fun t => .going (finish t)).settle (raise .transportError)) := by
  have k := Kept.xfer rs rw v len s
  refine (tracks_xfer hb hq rs rw v len).settle (fun u hu => ?_) fun u hu => ?_ <;> rw [hu] at k
  · have hou : u.op = s.op := k.op
    rw [xferDone, if_neg (hou.trans_ne ho), hfin u hou]
    exact .refl _
  · exact opAbort_other (k.op.trans_ne ho)

theorem reaches_backlightBody {s : State} (hb : s.top = .busy) (hr : AtRest s) (ho : s.op = opBacklight) :
    Reaches (issueWrite (backlightWord s)) (backlightBody s) := by
  have k := Kept.acrossCalls.writeThenDelay s.prm.tSettle (backlightWord s)
  have hn : npdWait (backlightWord s) = s.prm.tSettle := by simp [npdWait, hr.1]
  refine (tracks_writeThenDelay (s := backlightWord s) hb hn).settle (fun u hu => ?_) fun u hu => ?_ <;>
    rw [hu] at k
  · have hou : u.op = opBacklight := k.op.trans ho
    rw [delayDone, if_pos (backlight_going hr.1 hu).1, if_neg (by rw [hou]; decide), opFinish,
      if_neg (by rw [hou]; decide), if_neg (by rw [hou]; decide)]
    exact .refl _
  · have hou : u.op = opBacklight := k.op.trans ho
    exact opAbort_other (by rw [hou]; decide)

/-- From the first action of every operation, the reserved opcodes too. -/
theorem reaches_opBody {s : State} (hb : s.top = .busy) (hr : AtRest s) : Reaches (opStart s) (opBody s) := by
  unfold opStart opBody
  split_ifs with h1 h2 h3 h4 h5 h6
  · exact reaches_initBody ⟨hb, h1, hr⟩
  · exact reaches_xferAnswered hb hr.2 h1 _ _ _ _ fun u hu => by
      simp [opFinish, hu, h2, opCmd, opRdbf, opRdac]
  · exact reaches_xferAnswered hb hr.2 h1 _ _ _ _ fun u hu => by
      simp [opFinish, hu, h3, opData, opRdbf, opRdac]
  · exact reaches_backlightBody hb hr h4
  · exact reaches_xferAnswered hb hr.2 h1 _ _ _ _ fun u hu => if_pos (hu.trans h5)
  · exact reaches_xferAnswered hb hr.2 h1 _ _ _ _ fun u hu => by simp [opFinish, hu, h6, opRdac, opRdbf]
  · exact .refl _

end Sys2Proof.Machine

open Sys2Proof Sys2Proof.Machine

/-- Settles O55: with an invalid map both grains raise at once; otherwise the small steps track the operation's
flow, call by call and wait by wait, from its first action to its end. -/
theorem smallStepsReachTheMeaning : Obligations.SmallStepsReachTheMeaning := by
  intro w s t h hi hf
  rw [fetchStep_port] at hf
  cases hf
  change Reaches (begin w s) _
  rw [begin]
  unfold checked
  split_ifs
  · exact reaches_opBody rfl (h.idleAtRest hi)
  · exact .refl _
end

section
/-! PROOFS. A flow plays a list of events against the collaborators: it makes them in order, up to the call that
fails or the request that is never answered. Every instruction plays its `successEvents`. -/

namespace Sys2Proof.Machine

/-! ### Playing events -/

/-- The collaborators' answers still to come, and the trace, are the same. -/
structure SameScript (s t : State) : Prop where
  tpIn : t.tpIn = s.tpIn
  free : t.free = s.free
  dlIn : t.dlIn = s.dlIn
  trace : t.trace = s.trace

theorem SameScript.refl (s : State) : SameScript s s := ⟨rfl, rfl, rfl, rfl⟩

theorem SameScript.symm {s t : State} (h : SameScript s t) : SameScript t s :=
  ⟨h.tpIn.symm, h.free.symm, h.dlIn.symm, h.trace.symm⟩

theorem SameScript.trans {s t u : State} (h : SameScript s t) (g : SameScript t u) : SameScript s u :=
  ⟨g.tpIn.trans h.tpIn, g.free.trans h.free, g.dlIn.trans h.dlIn, g.trace.trans h.trace⟩

theorem SameScript.answer {s t : State} (h : SameScript s t) : transportAnswer t = transportAnswer s :=
  transportAnswer_congr h.tpIn h.free

/-- An event goes out (R13). -/
def logged (e : Event) (s : State) : State := { s with trace := s.trace ++ [e] }

/-- A call went out and its answer is used up. -/
def called (e : Event) (s : State) : State := takeAnswer (logged e s)

/-- A wait went out and has ended. -/
def waited (n : Micros) (s : State) : State := { logged (.delay n) s with dlIn := s.dlIn.tail }

@[simp] theorem called_dlIn (e : Event) (s : State) : (called e s).dlIn = s.dlIn := takeAnswer_dlIn _
@[simp] theorem called_trace (e : Event) (s : State) : (called e s).trace = s.trace ++ [e] := takeAnswer_trace _
@[simp] theorem waited_dlIn (n : Micros) (s : State) : (waited n s).dlIn = s.dlIn.tail := rfl
@[simp] theorem waited_trace (n : Micros) (s : State) : (waited n s).trace = s.trace ++ [.delay n] := rfl

theorem SameScript.logged {s t : State} (h : SameScript s t) (e : Event) :
    SameScript (logged e s) (logged e t) := ⟨h.tpIn, h.free, h.dlIn, congrArg (· ++ [e]) h.trace⟩

theorem SameScript.takeAnswer {s t : State} (h : SameScript s t) :
    SameScript (takeAnswer s) (takeAnswer t) := by
  constructor <;> simp [h.tpIn, h.free, h.dlIn, h.trace]

theorem SameScript.called {s t : State} (h : SameScript s t) (e : Event) :
    SameScript (called e s) (called e t) := (h.logged e).takeAnswer

theorem SameScript.waited {s t : State} (h : SameScript s t) (n : Micros) :
    SameScript (waited n s) (waited n t) :=
  ⟨h.tpIn, h.free, congrArg List.tail h.dlIn, congrArg (· ++ [Event.delay n]) h.trace⟩

/-- The flow is what becomes of the events, made in order from `s`, by what the collaborators answer. -/
inductive Plays : State → List Event → Flow → Prop
  | finished {s t : State} (h : SameScript s t) : Plays s [] (.going t)
  | answered {s : State} {e : Event} {r : List Event} {f : Flow} (he : e.isCall = true)
      (ha : (transportAnswer s).isOk = true) (h : Plays (called e s) r f) : Plays s (e :: r) f
  | failed {s t : State} {e : Event} {r : List Event} (he : e.isCall = true)
      (ha : transportAnswer s = .fail) (h : t.trace = s.trace ++ [e]) : Plays s (e :: r) (.aborted t)
  | unanswered {s t : State} {e : Event} {r : List Event} (he : e.isCall = true)
      (ha : transportAnswer s = .never) (hq : t.req = .write ∨ t.req = .read)
      (h : SameScript (logged e s) t) : Plays s (e :: r) (.waiting t)
  | ended {s : State} {n : Micros} {r : List Event} {f : Flow} (hd : s.dlIn.head? ≠ some .never)
      (h : Plays (waited n s) r f) : Plays s (.delay n :: r) f
  | endless {s t : State} {n : Micros} {r : List Event} (hd : s.dlIn.head? = some .never)
      (hq : t.req = .delay n) (h : SameScript (logged (.delay n) s) t) :
      Plays s (.delay n :: r) (.waiting t)

/-- Only the answers to come and the trace matter to where events are played from. -/
theorem Plays.of_same {s s' : State} {ev : List Event} {f : Flow} (h : Plays s ev f)
    (hs : SameScript s s') : Plays s' ev f := by
  induction h generalizing s' with
  | finished h => exact .finished (hs.symm.trans h)
  | answered he ha _ ih => exact .answered he (by rwa [hs.answer]) (ih (hs.called _))
  | failed he ha h => exact .failed he (by rwa [hs.answer]) (by rw [h, hs.trace])
  | unanswered he ha hq h => exact .unanswered he (by rwa [hs.answer]) hq ((hs.logged _).symm.trans h)
  | ended hd _ ih => exact .ended (by rwa [hs.dlIn]) (ih (hs.waited _))
  | endless hd hq h => exact .endless (by rwa [hs.dlIn]) hq ((hs.logged _).symm.trans h)

/-- Two flows one after the other play their events one after the other. -/
theorem Plays.andThen {s : State} {ev ev' : List Event} {f : Flow} {k : State → Flow} (h : Plays s ev f)
    (hk : ∀ t, f = .going t → Plays t ev' (k t)) : Plays s (ev ++ ev') (f.andThen k) := by
  induction h with
  | finished h => exact (hk _ rfl).of_same h.symm
  | answered he ha _ ih => exact .answered he ha (ih hk)
  | failed he ha h => exact .failed he ha h
  | unanswered he ha hq h => exact .unanswered he ha hq h
  | ended hd _ ih => exact .ended hd (ih hk)
  | endless hd hq h => exact .endless hd hq h

/-- What follows without an event of its own plays nothing more. -/
theorem Plays.andThen_same {s : State} {ev : List Event} {f : Flow} {g : State → State} (h : Plays s ev f)
    (hg : ∀ t, SameScript t (g t)) : Plays s ev (f.andThen fun t => .going (g t)) := by
  have := h.andThen (k := fun t => .going (g t)) fun t _ => .finished (hg t)
  rwa [List.append_nil] at this

/-! ### Where a flow ends -/

theorem answer_called (i : Nat) (e : Event) (s : State) : answer i (called e s) = answer (i + 1) s := by
  rw [answer_succ]; exact answer_congr i (by simp [called, logged]) (by simp [called, logged])

theorem answer_waited (i : Nat) (n : Micros) (s : State) : answer i (waited n s) = answer i s :=
  answer_congr i rfl rfl

theorem CallsSucceed.called {n : Nat} {s : State} (h : CallsSucceed (n + 1) s) (e : Event) :
    CallsSucceed n (called e s) := fun i hi => by rw [answer_called]; exact h (i + 1) (by omega)

theorem CallsSucceed.waited {m : Nat} {s : State} (h : CallsSucceed m s) (n : Micros) :
    CallsSucceed m (waited n s) := fun i hi => by rw [answer_waited]; exact h i hi

theorem Event.isDelay_of_isCall {e : Event} (h : e.isCall = true) : e.isDelay = false := by
  cases e <;> simp_all [Event.isCall, Event.isDelay]

theorem cutAtDelay_call {k : Nat} {e : Event} {r : List Event} (h : e.isCall = true) :
    cutAtDelay k (e :: r) = e :: cutAtDelay k r := by simp [cutAtDelay, cutAt, Event.isDelay_of_isCall h]

theorem calls_cutAtDelay_call {k : Nat} {e : Event} {r : List Event} (h : e.isCall = true) :
    calls (cutAtDelay k (e :: r)) = calls (cutAtDelay k r) + 1 := by
  rw [cutAtDelay_call h]; simp [calls, h]

/-- A next call that is not answered ok is the first one, if the calls before some other one succeed. -/
theorem eq_zero_of_callsSucceed {j : Nat} {s : State} (h : CallsSucceed j s)
    (hn : (transportAnswer s).isOk = false) : j = 0 := by
  cases j with
  | zero => rfl
  | succ j => have := h 0 (by omega); rw [answer_zero, hn] at this; cases this

/-- A flow whose call number `j` is the first without an answer waits for it, with the trace up to it (R64). -/
theorem Plays.waits_of_silent_call {s : State} {ev : List Event} {f : Flow} (h : Plays s ev f) {j : Nat}
    (hj : j < calls ev) (hd : DelaysEnd s) (hk : CallsSucceed j s) (hs : answer j s = .never) :
    ∃ u, f = .waiting u ∧ (u.req = .write ∨ u.req = .read) ∧ transportAnswer u = .never ∧
      u.trace = s.trace ++ cutAtCall j ev := by
  induction h generalizing j with
  | finished h => simp [calls] at hj
  | @answered s e r f he ha _ ih =>
    cases j with
    | zero => rw [answer_zero] at hs; simp [hs, TpAnswer.isOk] at ha
    | succ j =>
      obtain ⟨u, hf, hq, hu, ht⟩ := ih (j := j) (by simp [calls, he] at hj ⊢; omega)
        (fun a ha => hd a (by simpa using ha)) (hk.called e) (by rw [answer_called]; exact hs)
      exact ⟨u, hf, hq, hu, by simp [ht, cutAtCall, cutAt, he]⟩
  | failed he ha h =>
    obtain rfl := eq_zero_of_callsSucceed hk (by rw [ha]; rfl)
    rw [answer_zero, ha] at hs
    cases hs
  | @unanswered s t e r he ha hq h =>
    obtain rfl := eq_zero_of_callsSucceed hk (by rw [ha]; rfl)
    exact ⟨t, rfl, hq, h.answer.trans ha, by simp [h.trace, cutAtCall, cutAt, he, logged]⟩
  | @ended s n r f hh _ ih =>
    obtain ⟨u, hf, hq, hu, ht⟩ := ih (j := j) (by simpa [calls, Event.isCall] using hj) (hd.tail rfl)
      (hk.waited n) (by rw [answer_waited]; exact hs)
    exact ⟨u, hf, hq, hu, by simp [ht, cutAtCall, cutAt, Event.isCall]⟩
  | endless hh hq h => cases hd _ (List.mem_of_mem_head? hh)

/-- A flow whose wait number `k` is the first that never ends waits in it, with the trace up to it (R361). -/
theorem Plays.waits_of_silent_delay {s : State} {ev : List Event} {f : Flow} (h : Plays s ev f) {k : Nat}
    (hk : k < (ev.filter Event.isDelay).length) (hd : FirstSilentDelay k s)
    (hc : CallsSucceed (calls (cutAtDelay k ev)) s) :
    ∃ u n, f = .waiting u ∧ u.req = .delay n ∧ u.dlIn.head? = some .never ∧
      u.trace = s.trace ++ cutAtDelay k ev ∧ u.trace.getLast? = some (.delay n) := by
  induction h generalizing k with
  | finished h => simp at hk
  | @answered s e r f he ha _ ih =>
    rw [calls_cutAtDelay_call he] at hc
    obtain ⟨u, n, hf, hq, hu, ht, hl⟩ := ih (k := k) (by simpa [Event.isDelay_of_isCall he] using hk)
      (by simpa [FirstSilentDelay] using hd) (hc.called e)
    exact ⟨u, n, hf, hq, hu, by simp [ht, cutAtDelay_call he], hl⟩
  | failed he ha h =>
    rw [calls_cutAtDelay_call he] at hc
    cases eq_zero_of_callsSucceed hc (by rw [ha]; rfl)
  | unanswered he ha hq h =>
    rw [calls_cutAtDelay_call he] at hc
    cases eq_zero_of_callsSucceed hc (by rw [ha]; rfl)
  | @ended s n r f hh _ ih =>
    obtain ⟨hbefore, hnever⟩ := hd
    cases k with
    | zero => exact absurd (by rw [List.head?_eq_getElem?]; exact hnever) hh
    | succ k =>
      simp only [cutAtDelay, cutAt, Event.isDelay, if_true] at hc ⊢
      obtain ⟨u, n, hf, hq, hu, ht, hl⟩ := ih (k := k)
        (by simp only [List.filter_cons, Event.isDelay, if_true, List.length_cons] at hk; omega)
        ⟨fun i hi => by simpa using hbefore (i + 1) (by omega), by simpa using hnever⟩
        (CallsSucceed.waited (by simpa [calls, Event.isCall] using hc) _)
      exact ⟨u, n, hf, hq, hu, by simp [ht], hl⟩
  | @endless s t n r hh hq h =>
    obtain ⟨hbefore, -⟩ := hd
    cases k with
    | zero =>
      exact ⟨t, n, rfl, hq, by rw [h.dlIn]; exact hh,
        by simp [h.trace, cutAtDelay, cutAt, Event.isDelay, logged], by simp [h.trace, logged]⟩
    | succ k =>
      have := hbefore 0 (by omega)
      rw [← List.head?_eq_getElem?, hh] at this
      cases this

/-- After a trace `tr` the flow made all the events; those up to a failed call; or those up to a request that
is not answered. -/
def Flow.EndsAfter (tr ev : List Event) : Flow → Prop
  | .going u => u.trace = tr ++ ev
  | .aborted u => ∃ p e q, ev = p ++ e :: q ∧ e.isCall = true ∧ u.trace = tr ++ (p ++ [e])
  | .waiting u => ∃ p q, ev = p ++ q ∧ u.trace = tr ++ p

theorem Flow.EndsAfter.cons {tr r : List Event} {e : Event} {f : Flow} (h : f.EndsAfter (tr ++ [e]) r) :
    f.EndsAfter tr (e :: r) := by
  cases f with
  | going u => exact h.trans (by simp)
  | aborted u =>
    obtain ⟨p, c, q, rfl, hc, ht⟩ := h
    exact ⟨e :: p, c, q, rfl, hc, ht.trans (by simp)⟩
  | waiting u =>
    obtain ⟨p, q, rfl, ht⟩ := h
    exact ⟨e :: p, q, rfl, ht.trans (by simp)⟩

theorem Plays.endsAfter {s : State} {ev : List Event} {f : Flow} (h : Plays s ev f) :
    f.EndsAfter s.trace ev := by
  induction h with
  | finished h => exact h.trace.trans (by simp)
  | @answered s e r f _ _ _ ih => exact .cons (by rwa [called_trace] at ih)
  | @failed s t e r he _ h => exact ⟨[], e, r, rfl, he, h⟩
  | @unanswered s t e r _ _ _ h => exact ⟨[e], r, rfl, h.trace⟩
  | @ended s n r f _ _ ih => exact .cons ih
  | @endless s t n r _ _ h => exact ⟨[.delay n], r, rfl, h.trace⟩

/-! ### Calls and waits -/

theorem plays_delay (n : Micros) (s : State) : Plays s [.delay n] (delay n s) := by
  unfold delay receiveDelay
  have hends : s.dlIn.head? ≠ some .never → Plays s [.delay n] (.going (endDelay (issueDelay n s))) :=
    fun h => .ended h (.finished ⟨rfl, rfl, rfl, rfl⟩)
  split
  next r h => exact .endless (by rw [show s.dlIn = _ from h]; rfl) rfl ⟨rfl, rfl, rfl, rfl⟩
  next r h => exact hends (by rw [show s.dlIn = _ from h]; simp)
  next h => exact hends (by rw [show s.dlIn = _ from h]; simp)

theorem plays_ownDelay (n : Option Micros) (s : State) : Plays s (n.toList.map Event.delay) (ownDelay n s) := by
  cases n with
  | some n => exact plays_delay n s
  | none => exact .finished (.refl s)

theorem plays_write (s : State) : Plays s [.write s.word] (receiveWrite (issueWrite s)) := by
  cases ha : transportAnswer s with
  | ok b =>
    rw [receiveWrite_ok (s := issueWrite s) (by rw [show transportAnswer (issueWrite s) = _ from ha]; rfl)]
    exact .answered rfl (by rw [ha]; rfl) (.finished (by constructor <;> simp [called, logged]))
  | fail => rw [receiveWrite_fail (s := issueWrite s) ha]; exact .failed rfl ha (by simp)
  | never =>
    rw [receiveWrite_never (s := issueWrite s) ha]
    exact .unanswered rfl ha (.inl rfl) ⟨rfl, rfl, rfl, rfl⟩

theorem plays_read (s : State) : Plays s [.read] (receiveRead (issueRead s)) := by
  cases ha : transportAnswer s with
  | ok b =>
    rw [read_ok ha]
    exact .answered rfl (by rw [ha]; rfl) (.finished (by constructor <;> simp [called, logged]))
  | fail => rw [read_fails ha]; exact .failed rfl ha (by simp)
  | never => rw [read_silent ha]; exact .unanswered rfl ha (.inr rfl) ⟨rfl, rfl, rfl, rfl⟩

theorem plays_writeThenDelay (n : Micros) (s : State) :
    Plays s [.write s.word, .delay n] ((receiveWrite (issueWrite s)).andThen (delay n)) :=
  (plays_write s).andThen fun t _ => plays_delay n t

/-! ### The rows of the driver -/

/-- A writing row that went on: its call was answered and its wait ended. -/
theorem npdStep_write_going {s t : State} (hn : s.npd.Writes) (h : npdStep s = .going t) :
    t = npdAdvance (wrote (npdWait s) (putWord (rowWord s) s)) := by
  obtain ⟨u, hu, ht⟩ := Flow.andThen_eq_going.1 h
  cases ht
  rw [npdAction_write hn] at hu
  obtain ⟨v, hv, hd⟩ := Flow.andThen_eq_going.1 hu
  rw [delay_going hd]
  unfold receiveWrite at hv
  split at hv <;> cases hv
  apply State.ext <;> simp
  rfl

/-- A reading row that went on: its call brought a byte. -/
theorem npdStep_read_going {s t : State} (hn : s.npd = .sampleHigh ∨ s.npd = .sampleLow)
    (h : npdStep s = .going t) : ∃ b, t = npdAdvance (latchRead b (requestDone (issueRead s))) := by
  obtain ⟨u, hu, ht⟩ := Flow.andThen_eq_going.1 h
  cases ht
  rw [npdAction_read hn] at hu
  unfold receiveRead at hu
  split at hu <;> cases hu
  exact ⟨_, rfl⟩

/-- The nibble of the phase a row belongs to. -/
def rowNibble (v : Byte) : Npd → Nibble
  | .assembleHigh | .sampleHigh | .pulseHigh => highNibble v
  | .assembleLow | .sampleLow | .pulseLow | .done => lowNibble v

/-- The events of a row of R172 of the transfer whose operands `s` holds. -/
def rowEvents (s : State) (q : Npd) : List Event :=
  match q with
  | .done => []
  | .assembleHigh | .assembleLow =>
    [.write (encWord s s.rs s.rw true (rowNibble s.val q)), .delay s.prm.tPulse]
  | .sampleHigh | .sampleLow => [.read]
  | .pulseHigh | .pulseLow =>
    [.write (encWord s s.rs s.rw false (rowNibble s.val q)), .delay s.prm.tSettle]

/-- The events of at most `n` rows, from the row `q` on. -/
def driverEvents (s : State) : Nat → Npd → List Event
  | 0, _ => []
  | n + 1, q =>
    if q = .done then [] else rowEvents s q ++ driverEvents s n (npdNext s.prm.rdSample s.rw s.len q)

/-- What the events of a transfer depend on. -/
structure SameTransfer (s t : State) : Prop where
  prm : t.prm = s.prm
  pm : t.pm = s.pm
  blOn : t.blOn = s.blOn
  blPol : t.blPol = s.blPol
  rs : t.rs = s.rs
  rw : t.rw = s.rw
  len : t.len = s.len
  val : t.val = s.val

theorem SameTransfer.encWord {s t : State} (h : SameTransfer s t) (rs rw e : Bool) (n : Nibble) :
    encWord t rs rw e n = encWord s rs rw e n := encWord_congr h.pm h.blOn h.blPol _ _ _ _

theorem SameTransfer.driverEvents {s t : State} (h : SameTransfer s t) (n : Nat) (q : Npd) :
    driverEvents t n q = driverEvents s n q := by
  induction n generalizing q with
  | zero => rfl
  | succ n ih =>
    have hrow : rowEvents t q = rowEvents s q := by
      cases q <;> simp only [rowEvents, h.encWord, h.prm, h.rs, h.rw, h.val]
    simp only [Machine.driverEvents, hrow, ih, h.prm, h.rw, h.len]

/-- A row inside a phase, after its first word. -/
abbrev Npd.Inside (q : Npd) : Prop :=
  q = .sampleHigh ∨ q = .pulseHigh ∨ q = .sampleLow ∨ q = .pulseLow

/-- A row inside a phase comes after a row of the same phase. -/
theorem rowNibble_npdNext (sample : RdSample) (rw len : Bool) (v : Byte) {q : Npd}
    (h : (npdNext sample rw len q).Inside) : rowNibble v (npdNext sample rw len q) = rowNibble v q := by
  cases q <;> cases sample <;> cases rw <;> cases len <;> first | rfl | exact absurd h (by decide)

/-- Inside a phase, clearing enable in `WORD` gives the phase's second word (R153). -/
def WordFits (s : State) : Prop :=
  s.npd.Inside → s.word &&& ~~~(eMask s) = encWord s s.rs s.rw false (rowNibble s.val s.npd)

/-- So it does in the word a row hands out. -/
theorem WordFits.rowWord {s : State} (hp : PinMap.IsPerm s.pm) (hw : WordFits s) (hq : s.npd.Writes) :
    rowWord s &&& ~~~(eMask s) = encWord s s.rs s.rw false (rowNibble s.val s.npd) := by
  unfold Machine.rowWord
  rcases hq with h | h | h | h
  · rw [h]; exact encWord_clear_enable s hp _ _ _
  · rw [h]; exact encWord_clear_enable s hp _ _ _
  · rw [← hw (by rw [h]; decide), h]; exact BitVec.and_assoc .. |>.trans (by rw [BitVec.and_self])
  · rw [← hw (by rw [h]; decide), h]; exact BitVec.and_assoc .. |>.trans (by rw [BitVec.and_self])

theorem WordFits.next {s t : State} (ht : SameTransfer s t)
    (hn : t.npd = npdNext s.prm.rdSample s.rw s.len s.npd)
    (hc : t.word &&& ~~~(eMask s) = encWord s s.rs s.rw false (rowNibble s.val s.npd)) : WordFits t := by
  intro hi
  rw [hn] at hi
  rw [eMask_congr ht.pm, ht.encWord, ht.rs, ht.rw, ht.val, hn, rowNibble_npdNext _ _ _ _ hi, hc]

theorem rowEvents_write {s : State} (hw : WordFits s) (hq : s.npd.Writes) :
    rowEvents s s.npd = [.write (rowWord s), .delay (npdWait s)] := by
  unfold rowEvents Machine.rowWord npdWait
  rcases hq with h | h | h | h
  · rw [h]; rfl
  · rw [h]; rfl
  · rw [hw (by rw [h]; decide), h]
  · rw [hw (by rw [h]; decide), h]

theorem rowEvents_read {s : State} (hq : s.npd = .sampleHigh ∨ s.npd = .sampleLow) :
    rowEvents s s.npd = [.read] := by rcases hq with h | h <;> rw [h] <;> rfl

theorem plays_npdStep {s : State} (hn : s.npd ≠ .done) (hw : WordFits s) :
    Plays s (rowEvents s s.npd) (npdStep s) := by
  refine Plays.andThen_same (g := npdAdvance) ?_ fun t => ⟨rfl, rfl, rfl, rfl⟩
  rcases Npd.writes_or_samples hn with hq | hq
  · rw [npdAction_write hq, rowEvents_write hw hq]
    exact (plays_writeThenDelay (npdWait s) (putWord (rowWord s) s)).of_same ⟨rfl, rfl, rfl, rfl⟩
  · rw [npdAction_read hq, rowEvents_read hq]
    exact plays_read s

/-- Where a row goes on, it is the same transfer, and the word latch fits the next row. -/
theorem npdStep_sameTransfer {s t : State} (hp : PinMap.IsPerm s.pm) (hn : s.npd ≠ .done) (hw : WordFits s)
    (h : npdStep s = .going t) : SameTransfer s t ∧ WordFits t := by
  have hnext := (npdStep_going hn h).2.2
  rcases Npd.writes_or_samples hn with hq | hq
  · obtain rfl := npdStep_write_going hq h
    have ht : SameTransfer s (npdAdvance (wrote (npdWait s) (putWord (rowWord s) s))) := by constructor <;> simp
    exact ⟨ht, .next ht hnext (hw.rowWord hp hq)⟩
  · obtain ⟨b, rfl⟩ := npdStep_read_going hq h
    have ht : SameTransfer s (npdAdvance (latchRead b (requestDone (issueRead s)))) := by constructor <;> simp
    refine ⟨ht, .next ht hnext ?_⟩
    simpa using hw (by rcases hq with h | h <;> rw [h] <;> decide)

theorem plays_npdRun {s : State} (hp : PinMap.IsPerm s.pm) (n : Nat) (hw : WordFits s) :
    Plays s (driverEvents s n s.npd) (npdRun n s) := by
  induction n generalizing s with
  | zero => exact .finished (.refl s)
  | succ n ih =>
    rw [npdRun, driverEvents]
    split_ifs with hn
    · exact .finished (.refl s)
    · refine (plays_npdStep hn hw).andThen fun t ht => ?_
      obtain ⟨hsame, hfits⟩ := npdStep_sameTransfer hp hn hw ht
      rw [← (npdStep_going hn ht).2.2, ← hsame.driverEvents]
      exact ih (by rw [hsame.pm]; exact hp) hfits

theorem plays_xfer {s : State} (hp : PinMap.IsPerm s.pm) (rs rw : Bool) (v : Byte) (len : Bool) :
    Plays s (driverEvents (xferStart rs rw v len s) 6 .assembleHigh) (xfer rs rw v len s) :=
  (plays_npdRun (s := xferStart rs rw v len s) hp 6 fun hi => absurd hi (by simp [Npd.Inside])).of_same
    ⟨rfl, rfl, rfl, rfl⟩

/-! ### The transfers -/

/-- The write transfer of one nibble or of a byte (R179). -/
def sendEvents (s : State) (rs : Bool) (v : Byte) (len : Bool) : List Event :=
  if len then byteEvents s rs v else nibbleEvents s rs (highNibble v)

theorem driverEvents_send (s : State) (rs : Bool) (v : Byte) (len : Bool) :
    driverEvents (xferStart rs false v len s) 6 .assembleHigh = sendEvents s rs v len := by
  cases hs : s.prm.rdSample <;> cases len <;>
    simp [driverEvents, rowEvents, npdNext, rowNibble, sendEvents, byteEvents, nibbleEvents, hs]

theorem driverEvents_read (s : State) (len : Bool) :
    driverEvents (xferStart false true 0xFF#8 len s) 6 .assembleHigh = readEvents s len := by
  have hh : highNibble 0xFF#8 = 0xF#4 := rfl
  have hl : lowNibble 0xFF#8 = 0xF#4 := rfl
  cases hs : s.prm.rdSample <;> cases len <;>
    simp [driverEvents, rowEvents, npdNext, rowNibble, readEvents, readPhaseEvents, hs, hh, hl]

theorem plays_send {s : State} (hp : PinMap.IsPerm s.pm) (rs : Bool) (v : Byte) (len : Bool) :
    Plays s (sendEvents s rs v len) (xfer rs false v len s) := by
  rw [← driverEvents_send]; exact plays_xfer hp rs false v len

theorem plays_readXfer {s : State} (hp : PinMap.IsPerm s.pm) (len : Bool) :
    Plays s (readEvents s len) (readXfer len s) := by
  rw [← driverEvents_read]; exact plays_xfer hp false true _ len

/-! ### The sequencer -/

/-- The events of one transaction of the sequencer, with the step's own delay (R204). -/
def seqRowEvents (s : State) (r : SeqRow) : List Event :=
  sendEvents s false r.val r.len ++ r.own.toList.map Event.delay

/-- The events of the step that `SEQ` names (R204). -/
def seqStepEvents (s : State) : List Event :=
  match seqRow s with
  | some r => seqRowEvents s r
  | none => if s.seq = 0#4 then [.delay s.prm.tPowerOn] else []

/-- The events of at most `n` steps from `SEQ` on. -/
def seqEvents : Nat → State → List Event
  | 0, _ => []
  | n + 1, s => if s.seq ≤ 9#4 then seqStepEvents s ++ seqEvents n { s with seq := nextSeq s.seq } else []

theorem sendEvents_congr {s t : State} (k : Kept s t) (rs : Bool) (v : Byte) (len : Bool) :
    sendEvents t rs v len = sendEvents s rs v len := by
  simp only [sendEvents, byteEvents_congr k.prm k.pm k.blOn k.blPol, nibbleEvents_congr k.prm k.pm k.blOn k.blPol]

theorem seqEvents_congr {s t : State} (k : Kept s t) (hq : SameSeq s t) (n : Nat) :
    seqEvents n t = seqEvents n s := by
  induction n generalizing s t with
  | zero => rfl
  | succ n ih =>
    have h : t.seq = s.seq := hq
    have hstep : seqStepEvents t = seqStepEvents s := by
      simp only [seqStepEvents, seqRowEvents, seqRow_congr k hq, sendEvents_congr k, h, k.prm]
    simp only [seqEvents, hstep, h]
    rw [ih (s := { s with seq := nextSeq s.seq }) (t := { t with seq := nextSeq s.seq }) { k with } rfl]

theorem plays_seqSend {s : State} (hp : PinMap.IsPerm s.pm) (r : SeqRow) :
    Plays s (seqRowEvents s r) (seqSend r s) :=
  (plays_send hp false r.val r.len).andThen fun t _ => plays_ownDelay r.own t

theorem plays_seqAction {s : State} (hp : PinMap.IsPerm s.pm) : Plays s (seqStepEvents s) (seqAction s) := by
  unfold seqStepEvents seqAction
  cases seqRow s with
  | some r => exact plays_seqSend hp r
  | none =>
    dsimp only
    split_ifs
    · exact plays_delay _ s
    · exact .finished (.refl s)

theorem plays_seqRun {s : State} (hp : PinMap.IsPerm s.pm) (n : Nat) : Plays s (seqEvents n s) (seqRun n s) := by
  induction n generalizing s with
  | zero => exact .finished (.refl s)
  | succ n ih =>
    rw [seqRun, seqEvents]
    split_ifs
    · refine (plays_seqAction hp).andThen fun t ht => ?_
      have k := Flow.rel_going ht (Kept.seqAction s)
      have hq : t.seq = s.seq := Flow.rel_going ht (SameSeq.acrossTransfers.seqAction s)
      have ka := Kept.trans _ _ _ k (Kept.seqAdvance t)
      rw [← seqEvents_congr (s := { s with seq := nextSeq s.seq }) { ka with }
        (show (seqAdvance t).seq = nextSeq s.seq by rw [seqAdvance_seq, hq])]
      exact (ih (s := seqAdvance t) (by rw [ka.pm]; exact hp)).of_same
        (by constructor <;> simp [seqAdvance])
    · exact .finished (.refl s)

/-- The eleven steps of INIT (R204, R213). -/
theorem seqEvents_initStart (s : State) : seqEvents 10 (initStart s) = initEvents s s.a1 (s.a2.getLsbD 0) := by
  have probe : highNibble (probeByte 0#4) = 3#4 := by decide
  have switch4 : highNibble (switch4Byte 0#4) = 2#4 := by decide
  simp [seqEvents, seqStepEvents, seqRowEvents, seqRow, nextSeq, kProbeRow, kSwitch4Row, kFuncsetRow,
    kDisplayOffRow, kClearRow, kEntryLtrRow, kDisplayOnRow, probeDelay, sendEvents, initEvents, probe, switch4,
    requestedFont]
  rfl

/-! ### The operations -/

/-- The state an instruction leaves by a flow: the flow's events, then the response that ends it (R54, R310), or
the wait for ever. -/
def Flow.Leaves (t : State) : Flow → Prop
  | .going u => t.trace = u.trace ∨ ∃ d, t.trace = u.trace ++ [.rsp .ok d]
  | .aborted u => t.trace = u.trace ++ [.rsp .transportError 0#8]
  | .waiting u => t = u ∧ t.top = .busy ∧ t.rspValid = false

/-- From `s` an instruction plays the events and leaves `t`. -/
def Performs (s : State) (ev : List Event) (t : State) : Prop := ∃ f, Plays s ev f ∧ f.Leaves t

theorem Performs.of_same {s s' t : State} {ev : List Event} (h : Performs s ev t) (hs : SameScript s s') :
    Performs s' ev t := by
  obtain ⟨f, hf, ht⟩ := h
  exact ⟨f, hf.of_same hs, ht⟩

/-- The map check of a valid map plays nothing (R305). -/
theorem Performs.checked {s s' : State} {ev : List Event} {body : State → State} (hs : SameScript s s')
    (hm : s'.mapValid = true) (h : Performs s' ev (body s')) : Performs s ev (checked body s') := by
  rw [checked_valid body hm]
  exact h.of_same hs.symm

/-- An operation that ends by its finish, its abort, or the wait for ever. -/
theorem Plays.performs {s : State} {ev : List Event} {f : Flow} {finish onAbort : State → State}
    (h : Plays s ev f) (k : Kept s f.state) (hb : s.top = .busy) (hv : s.rspValid = false)
    (hfin : ∀ u, (finish u).trace = u.trace ∨ ∃ d, (finish u).trace = u.trace ++ [.rsp .ok d])
    (habort : ∀ u, (onAbort u).trace = u.trace ++ [.rsp .transportError 0#8]) :
    Performs s ev ((f.andThen fun t => .going (finish t)).settle onAbort) := by
  refine ⟨f, h, ?_⟩
  cases f with
  | going u => exact hfin u
  | aborted u => exact habort u
  | waiting u => exact ⟨rfl, k.top.trans hb, k.rspValid.trans hv⟩

section
variable {s : State} (hp : PinMap.IsPerm s.pm) (hb : s.top = .busy) (hv : s.rspValid = false)
include hp hb hv

theorem performs_byteBody (rs : Bool) : Performs s (byteEvents s rs s.a0) (byteBody rs s) :=
  (plays_send hp rs s.a0 true).performs (Kept.xfer _ _ _ _ s) hb hv (fun _ => .inr ⟨_, rfl⟩) fun _ => rfl

theorem performs_rdbfBody : Performs s (readEvents s s.prm.bfFullCycle) (rdbfBody s) :=
  (plays_readXfer hp _).performs (Kept.xfer _ _ _ _ s) hb hv (fun _ => .inr ⟨_, rfl⟩) fun _ => rfl

theorem performs_rdacBody : Performs s (readEvents s true) (rdacBody s) :=
  (plays_readXfer hp _).performs (Kept.xfer _ _ _ _ s) hb hv (fun _ => .inr ⟨_, rfl⟩) fun _ => rfl

omit hp in
theorem performs_backlightBody : Performs s (backlightEvents s s.a0) (backlightBody s) :=
  (plays_writeThenDelay s.prm.tSettle (backlightWord s)).performs (Kept.acrossCalls.writeThenDelay _ _) hb hv
    (fun _ => .inr ⟨_, rfl⟩) (fun _ => rfl) |>.of_same ⟨rfl, rfl, rfl, rfl⟩

theorem performs_initBody : Performs s (initEvents s s.a1 (s.a2.getLsbD 0)) (initBody s) := by
  rw [← seqEvents_initStart]
  exact ((plays_seqRun (s := initStart s) hp 10).performs (Kept.seqRun 10 _) hb hv (fun _ => .inr ⟨_, rfl⟩)
    fun _ => rfl).of_same ⟨rfl, rfl, rfl, rfl⟩

end

/-- A row of the sequencer run alone (log 1). -/
theorem performs_seqAlone {s : State} (hp : PinMap.IsPerm s.pm) (hm : s.mapValid = true) (r : SeqRow) :
    Performs s (seqRowEvents s r) (seqAlone r s) :=
  .checked (s' := { s with top := .busy, rspValid := false }) ⟨rfl, rfl, rfl, rfl⟩ hm
    ((plays_seqSend (s := { s with top := .busy, rspValid := false }) hp r).performs (Kept.seqSend r _) rfl rfl
      (fun _ => .inl rfl) fun _ => rfl)

theorem performs_layerCmd {s : State} (hp : PinMap.IsPerm s.pm) (hm : s.mapValid = true) (byte : Byte) :
    Performs s (byteEvents s false byte) (layerCmd byte s) :=
  .checked ⟨rfl, rfl, rfl, rfl⟩ hm
    (performs_byteBody (s := accept opCmd byte 0#8 0#8 (layerIssue _ s)) hp rfl rfl false)

/-- The layer's own wait after a command is no event of the framer. -/
theorem Performs.layerWait {s t : State} {ev : List Event} (h : Performs s ev t) :
    Performs s ev (layerWait t) := by
  obtain ⟨f, hf, ht⟩ := h
  refine ⟨f, hf, ?_⟩
  have htr : (Machine.layerWait t).trace = t.trace := by unfold Machine.layerWait; split <;> rfl
  cases f with
  | going u => simpa only [Flow.Leaves, htr] using ht
  | aborted u => simpa only [Flow.Leaves, htr] using ht
  | waiting u =>
    have : Machine.layerWait t = t := if_neg (by simp [succeeded, ht.2.1])
    rwa [this]

/-- Every instruction plays its `successEvents`, and leaves what the answers make of them. -/
theorem performs_exec {s t : State} (hp : PinMap.IsPerm s.pm) (hm : s.mapValid = true) (i : Instr)
    (h : exec i s = .next t) : Performs s (successEvents s i) t := by
  have accepted {op : BitVec 4} {a0 a1 a2 : Byte} {body : State → State} {ev : List Event}
      (hbody : Performs (accept op a0 a1 a2 s) ev (body (accept op a0 a1 a2 s))) :
      Performs s ev (checked body (accept op a0 a1 a2 s)) := .checked ⟨rfl, rfl, rfl, rfl⟩ hm hbody
  cases i <;> cases h
  case init => exact accepted (performs_initBody hp rfl rfl)
  case cmd => exact accepted (performs_byteBody (s := accept ..) hp rfl rfl false)
  case data => exact accepted (performs_byteBody (s := accept ..) hp rfl rfl true)
  case backlight => exact accepted (performs_backlightBody rfl rfl)
  case rdbf => exact accepted (performs_rdbfBody hp rfl rfl)
  case rdac => exact accepted (performs_rdacBody hp rfl rfl)
  case kProbe x =>
    have hx : highNibble (probeByte x) = 3#4 := by revert x; decide
    have he : successEvents s (.kProbe x) = seqRowEvents s (kProbeRow x s) := by
      rw [successEvents, ← hx]; rfl
    exact he ▸ performs_seqAlone hp hm (kProbeRow x s)
  case kSwitch4 x =>
    have hx : highNibble (switch4Byte x) = 2#4 := by revert x; decide
    have he : successEvents s (.kSwitch4 x) = seqRowEvents s (kSwitch4Row x) := by
      rw [successEvents, ← hx]; rfl
    exact he ▸ performs_seqAlone hp hm (kSwitch4Row x)
  case kFuncset n f => exact performs_seqAlone hp hm (kFuncsetRow n f)
  case kDisplayOff => exact performs_seqAlone hp hm kDisplayOffRow
  case kClear => exact performs_seqAlone hp hm (kClearRow s)
  case kEntryLtr => exact performs_seqAlone hp hm kEntryLtrRow
  case kDisplayOn => exact performs_seqAlone hp hm kDisplayOnRow
  case clear | home => exact (performs_layerCmd hp hm _).layerWait
  case displayctl d c b =>
    exact (performs_layerCmd (s := displayFlags d c b s) hp hm _).of_same ⟨rfl, rfl, rfl, rfl⟩
  case entrymode ltr auto =>
    exact (performs_layerCmd (s := entryFlags ltr auto s) hp hm _).of_same ⟨rfl, rfl, rfl, rfl⟩
  case setddram | shift | setcgram => exact performs_layerCmd hp hm _

/-! ### The stuck state -/

/-- A framer that waits for an answer that never comes stops at its next step (R64). -/
theorem step_transportSilent {s : State} (hb : s.top = .busy) (hq : s.req = .write ∨ s.req = .read)
    (ha : transportAnswer s = .never) (hn : Expect.NoResetNext s) : step s = .fault .transportSilent := by
  rw [step_busy hb hn]
  rcases hq with hq | hq
  · simp only [busyStep, smallStep, hq, receiveWrite_never ha, Flow.waiting_andThen]
  · simp only [busyStep, smallStep, hq, receiveRead_never ha, Flow.waiting_andThen]

theorem receiveDelay_never {s : State} (h : s.dlIn.head? = some .never) : receiveDelay s = .waiting s := by
  obtain ⟨r, hr⟩ := List.head?_eq_some_iff.1 h
  simp only [receiveDelay, hr]

theorem step_delaySilent {s : State} {n : Micros} (hb : s.top = .busy) (hq : s.req = .delay n)
    (hd : s.dlIn.head? = some .never) (hn : Expect.NoResetNext s) : step s = .fault .delaySilent := by
  rw [step_busy hb hn]
  simp only [busyStep, smallStep, hq, receiveDelay_never hd, Flow.waiting_andThen]

end Sys2Proof.Machine

open Sys2Proof Sys2Proof.Machine

/-- Settles O35: the instruction plays its events up to the silent request, and waits there. -/
theorem silentCollaboratorIsStuck : Obligations.SilentCollaboratorIsStuck := by
  constructor
  · intro i j s hr hd hj hk hs
    obtain ⟨t, ht⟩ := exec_next i s
    obtain ⟨f, hf, hl⟩ := performs_exec (hr.inv.mapIsPerm hr.map) hr.map i ht
    obtain ⟨u, rfl, hq, ha, htr⟩ := hf.waits_of_silent_call hj hd hk hs
    obtain ⟨rfl, hb, hv⟩ := hl
    exact ⟨t, ht, hb, by rcases hq with hq | hq <;> simp [tpValid, hq], hv, htr, step_transportSilent hb hq ha⟩
  · intro i k s hr hd hk hc
    obtain ⟨t, ht⟩ := exec_next i s
    obtain ⟨f, hf, hl⟩ := performs_exec (hr.inv.mapIsPerm hr.map) hr.map i ht
    obtain ⟨u, n, rfl, hq, hn, htr, hlast⟩ := hf.waits_of_silent_delay hk hd hc
    obtain ⟨rfl, hb, hv⟩ := hl
    exact ⟨t, ht, hb, by simp only [dlValid, hq], hv, htr, by simpa only [dlUs, hq] using hlast,
      step_delaySilent hb hq hn⟩
end

section
/-! PROOFS. A delay after every write that was answered (O45): the events an instruction plays are spaced, and so
is what is left of them where it ends early. -/

namespace Sys2Proof.Machine

variable {s : State}

theorem spaced_write_delay (w : Byte) (n : Micros) (r : List Event) :
    spaced s (.write w :: .delay n :: r) =
      (decide ((if atSlot s.pm w slotE then s.prm.tPulse else s.prm.tSettle) ≤ n) && spaced s r) := by
  rw [spaced]

@[simp] theorem spaced_delay (n : Micros) (r : List Event) : spaced s (.delay n :: r) = spaced s r := by
  rw [spaced]

theorem spaced_read {r : List Event} (h : ∀ n t, r ≠ .delay n :: t) : spaced s (.read :: r) = spaced s r := by
  rw [spaced]
  exact fun n t e => h n t e

theorem spaced_read_elim {r : List Event} (h : spaced s (.read :: r) = true) :
    (∀ n t, r ≠ .delay n :: t) ∧ spaced s r = true := by
  have hr : ∀ n t, r ≠ .delay n :: t := by
    rintro n t rfl
    simp [spaced] at h
  exact ⟨hr, by rwa [spaced_read hr] at h⟩

/-- A write is followed by its delay, or it is the last event, or the next to last before the error. -/
theorem spaced_write_cons {w : Byte} {e : Event} {r : List Event} (h : spaced s (.write w :: e :: r) = true) :
    (∃ n, e = .delay n) ∨ r = [] := by
  cases e with
  | delay n => exact .inl ⟨n, rfl⟩
  | write _ | read => simp [spaced] at h
  | rsp st d => cases r with
    | nil => exact .inr rfl
    | cons _ _ => simp [spaced] at h

/-- What an instruction appends where it ends early: nothing, or the response of a failed call. -/
def EndsEarly (l : List Event) : Prop := l = [] ∨ ∃ d, l = [.rsp .transportError d]

theorem EndsEarly.no_delay {l : List Event} (h : EndsEarly l) (n : Micros) (t : List Event) :
    l ≠ .delay n :: t := by
  rcases h with rfl | ⟨d, rfl⟩ <;> simp

/-- Spaced events may be cut off anywhere. -/
theorem spaced_cut {p q l : List Event} (hl : EndsEarly l) (hq : q ≠ []) (h : spaced s (p ++ q) = true) :
    spaced s (p ++ l) = true := by
  have hnil : spaced s l = true := by rcases hl with rfl | ⟨d, rfl⟩ <;> rfl
  induction p using spaced.induct with
  | case1 => exact hnil
  | case2 w n r ih =>
    simp only [List.cons_append, spaced_write_delay, Bool.and_eq_true] at h ⊢
    exact ⟨h.1, ih h.2⟩
  | case3 w st d => rcases spaced_write_cons h with ⟨n, hn⟩ | hr <;> simp_all
  | case4 w => rcases hl with rfl | ⟨d, rfl⟩ <;> rfl
  | case5 w tail hdelay hrsp hne =>
    obtain ⟨e, t, rfl⟩ := List.exists_cons_of_ne_nil hne
    rcases spaced_write_cons h with ⟨n, rfl⟩ | hr
    · exact absurd rfl (hdelay n t)
    · simp_all
  | case6 n t => exact absurd rfl ((spaced_read_elim h).1 n _)
  | case7 r hr ih =>
    obtain ⟨-, hrest⟩ := spaced_read_elim h
    rw [List.cons_append, spaced_read, ih hrest]
    intro n t
    cases r with
    | nil => exact hl.no_delay n t
    | cons e r => rintro ⟨rfl, -⟩; exact hr n r rfl
  | case8 n r ih =>
    rw [List.cons_append, spaced_delay] at h ⊢
    exact ih h
  | case9 st d r ih =>
    simp only [List.cons_append, spaced] at h ⊢
    exact ih h

/-! ### The events of every instruction are spaced -/

section
variable (hp : PinMap.IsPerm s.pm)
include hp

theorem spaced_nibbleEvents (rs : Bool) (n : Nibble) (r : List Event) :
    spaced s (nibbleEvents s rs n ++ r) = spaced s r := by
  simp [nibbleEvents, spaced_write_delay, atSlot_encWord_enable s hp]

theorem spaced_byteEvents (rs : Bool) (v : Byte) (r : List Event) :
    spaced s (byteEvents s rs v ++ r) = spaced s r := by
  rw [byteEvents, List.append_assoc, spaced_nibbleEvents hp, spaced_nibbleEvents hp]

theorem spaced_backlightEvents (on : Byte) (r : List Event) :
    spaced s (backlightEvents s on ++ r) = spaced s r := by
  have hlow : atSlot s.pm (blMask { s with blOn := on.getLsbD 0 }) slotE = false := by
    rw [atSlot_blMask { s with blOn := on.getLsbD 0 } hp]; simp [slotE, slotBL]
  rw [backlightEvents, List.cons_append, List.cons_append, spaced_write_delay, hlow]
  simp

theorem spaced_readPhaseEvents {r : List Event} (hr : ∀ n t, r ≠ .delay n :: t) :
    spaced s (readPhaseEvents s ++ r) = spaced s r := by
  unfold readPhaseEvents
  cases s.prm.rdSample <;>
    simp [spaced_write_delay, spaced_read, atSlot_encWord_enable s hp, hr]

omit hp in
theorem readPhaseEvents_no_delay (r : List Event) (n : Micros) (t : List Event) :
    readPhaseEvents s ++ r ≠ .delay n :: t := by
  unfold readPhaseEvents
  cases s.prm.rdSample <;> simp

theorem spaced_readEvents (len : Bool) {r : List Event} (hr : ∀ n t, r ≠ .delay n :: t) :
    spaced s (readEvents s len ++ r) = spaced s r := by
  cases len
  · exact spaced_readPhaseEvents hp hr
  · rw [readEvents, if_pos rfl, List.append_assoc, spaced_readPhaseEvents hp (readPhaseEvents_no_delay r),
      spaced_readPhaseEvents hp hr]

theorem spaced_initEvents (rows : Byte) (font : Bool) (r : List Event) :
    spaced s (initEvents s rows font ++ r) = spaced s r := by
  simp [initEvents, spaced_nibbleEvents hp, spaced_byteEvents hp]

/-- Every instruction's events, with its response or without. -/
theorem spaced_successEvents (i : Instr) {r : List Event} (hr : ∀ n t, r ≠ .delay n :: t) :
    spaced s (successEvents s i ++ r) = spaced s r := by
  cases i
  case init => exact spaced_initEvents hp _ _ r
  case backlight => exact spaced_backlightEvents hp _ r
  case rdbf | rdac => exact spaced_readEvents hp _ hr
  case kProbe =>
    rw [successEvents, List.append_assoc, spaced_nibbleEvents hp]
    cases probeDelay s <;> simp
  case kSwitch4 => exact spaced_nibbleEvents hp _ _ r
  case kClear => simp [successEvents, spaced_byteEvents hp]
  all_goals exact spaced_byteEvents hp _ _ r

end

end Sys2Proof.Machine

open Sys2Proof Sys2Proof.Machine

/-- Settles O45: the events an instruction plays are spaced, with an `OK` response after them; where it ends
early, they are cut off, and the response of a failed call may follow. -/
theorem everyWriteIsFollowedByItsDelay : Obligations.EveryWriteIsFollowedByItsDelay := by
  intro i s t h hm ht
  have hp := h.mapIsPerm hm
  obtain ⟨f, hf, hl⟩ := performs_exec hp hm i ht
  have hall {r : List Event} (hr : ∀ n t, r ≠ .delay n :: t) := spaced_successEvents hp i hr
  have hok (d : Byte) : spaced s (successEvents s i ++ [.rsp .ok d]) = true := by rw [hall (by simp)]; rfl
  have hend := hf.endsAfter
  cases f with
  | going u =>
    rcases hl with hl | ⟨d, hl⟩
    · exact ⟨_, hl.trans hend, by simpa [spaced] using hall (r := []) (by simp)⟩
    · exact ⟨_, (hl.trans (by rw [hend])).trans (List.append_assoc ..), hok d⟩
  | aborted u =>
    obtain ⟨p, e, q, he, -, htr⟩ := hend
    refine ⟨(p ++ [e]) ++ [.rsp .transportError 0#8], hl.trans (by rw [htr, List.append_assoc]), ?_⟩
    exact spaced_cut (q := q ++ [.rsp .ok 0#8]) (.inr ⟨_, rfl⟩) (by simp) (by simpa [he] using hok 0#8)
  | waiting u =>
    obtain ⟨p, q, he, htr⟩ := hend
    obtain ⟨rfl, -, -⟩ := hl
    refine ⟨p, htr, ?_⟩
    simpa using spaced_cut (l := []) (q := q ++ [.rsp .ok 0#8]) (.inl rfl) (by simp) (by simpa [he] using hok 0#8)
end

section
/-! PROOFS. What a failed DATA does to the controller's nibble phase, by the call that fails (O52). -/

namespace Sys2Proof.Machine

/-! ### A phase whose call fails (R72) -/

/-- A failed write turns the phase or leaves it: whether it landed is not known (R60). -/
theorem maybeLandWord_ctl_cases (s : State) :
    (maybeLandWord s).ctl = s.ctl ∨ (maybeLandWord s).ctl = s.ctl.latch := by
  rw [maybeLandWord_ctl, landWord_ctl]
  split_ifs <;> simp

/-- A word with enable high turns nothing, whether it landed or not. -/
theorem maybeLandWord_ctl_of_no_fall {s : State}
    (h : enableFalls s.pm (Memory.read s.bus s.devAddr.toNat) s.word = false) :
    (maybeLandWord s).ctl = s.ctl := by
  rw [maybeLandWord_ctl, landWord_ctl, h]
  simp

theorem npdRun_write_fails {s : State} (m : Nat) (hw : s.npd.Writes) (h : transportAnswer s = .fail) :
    npdRun (m + 1) s = .aborted (maybeLandWord (requestDone (issueWrite (putWord (rowWord s) s)))) := by
  have hd : s.npd ≠ .done := by rcases hw with h | h | h | h <;> simp [h]
  rw [npdRun, if_neg hd, npdStep_write_fails hw h, Flow.aborted_andThen]

/-- The first word of a phase, which has enable high, turns nothing. -/
theorem first_word_fails {s : State} (m : Nat) {n : Nibble} (hp : PinMap.IsPerm s.pm) (hn : Assembles s n)
    (h : transportAnswer s = .fail) : ∃ u, npdRun (m + 1) s = .aborted u ∧ u.ctl = s.ctl := by
  obtain ⟨hw, hword⟩ : s.npd.Writes ∧ rowWord s = encWord s s.rs s.rw true n := by
    rcases hn with ⟨h, rfl⟩ | ⟨h, rfl⟩ <;> simp [rowWord, h, Npd.Writes]
  refine ⟨_, npdRun_write_fails m hw h, ?_⟩
  rw [maybeLandWord_ctl_of_no_fall]
  · simp
  · simpa [hword] using enableFalls_high s hp _ _ _ _

/-- The second word of a phase turns the controller's nibble phase if it lands. -/
theorem second_word_fails {s : State} (m : Nat) {n : Nibble} (hp : PinMap.IsPerm s.pm) (hn : Assembles s n)
    (hrw : s.rw = false) (h0 : (transportAnswer s).isOk = true) (h1 : answer 1 s = .fail) (hd : DelaysEnd s) :
    ∃ u, npdRun (m + 2) s = .aborted u ∧ (u.ctl = s.ctl ∨ u.ctl = s.ctl.latch) := by
  rw [assemble_row (m + 1) hn h0 hd]
  generalize hv : npdAdvance (wrote s.prm.tPulse (putWord (encWord s s.rs s.rw true n) s)) = v
  have hpulse : v.npd.Writes := by
    subst hv
    rcases hn with ⟨h, -⟩ | ⟨h, -⟩ <;> cases hs : s.prm.rdSample <;> simp [h, hs, hrw, npdNext, Npd.Writes]
  have hfail : transportAnswer v = .fail := by
    subst hv
    exact (transportAnswer_congr (t := takeAnswer s) (by simp) (by simp)).trans h1
  have hctl : v.ctl = s.ctl := by subst hv; simp [enableFalls_high s hp]
  exact ⟨_, npdRun_write_fails m hpulse hfail, by
    simpa [hctl] using maybeLandWord_ctl_cases (requestDone (issueWrite (putWord (rowWord v) v)))⟩

theorem byteBody_aborted {s u : State} {rs : Bool} (h : xfer rs false s.a0 true s = .aborted u) :
    byteBody rs s = raise .transportError u := by rw [byteBody, h]; rfl

end Sys2Proof.Machine

open Sys2Proof Sys2Proof.Machine

/-- Settles O52, phase by phase: the first word of a phase turns nothing, the second turns the controller's nibble
phase if it lands, and a completed phase has turned it once. -/
theorem abortedByteLosesThePhase : Obligations.AbortedByteLosesThePhase := by
  intro byte a1 a2 j s t hr hd hk hf ht _
  have hp := hr.inv.mapIsPerm hr.map
  let a := xferStart true false byte true (accept opData byte a1 a2 s)
  let b := phaseWritten (highNibble byte) .assembleLow a
  have aborted {u : State} (hu : npdRun 6 a = .aborted u) : t.ctl = u.ctl := by
    cases ht
    rw [checked_valid _ (by exact hr.map), byteBody_aborted (u := u) hu]
    rfl
  have hak (k : Nat) : answer k a = answer k s := answer_congr k rfl rfl
  have ha0 (h : 0 < j) : (transportAnswer a).isOk = true := hk 0 h
  have hphase (h : 1 < j) : npdRun 6 a = npdRun 4 b :=
    write_phase (s := a) 4 hp hr.inv.busCanonical rfl (ha0 (by omega)) (by rw [hak]; exact hk 1 h) hd
      (.inl ⟨rfl, rfl⟩)
  have hbk (k : Nat) : answer k b = answer (2 + k) s := by rw [← hak]; exact answer_later 2 k rfl rfl
  have hbd : DelaysEnd b := hd.drop 2 rfl
  refine ⟨?_, ?_, ?_, ?_⟩
  · rintro rfl
    obtain ⟨u, hu, hc⟩ := first_word_fails (s := a) 5 hp (.inl ⟨rfl, rfl⟩) hf
    exact (aborted hu).trans hc
  · rintro rfl
    obtain ⟨u, hu, hc⟩ := second_word_fails (s := a) 4 hp (.inl ⟨rfl, rfl⟩) rfl (ha0 (by omega))
      (by rw [hak]; exact hf) hd
    rw [aborted hu]
    exact hc
  · rintro rfl
    obtain ⟨u, hu, hc⟩ := first_word_fails (s := b) 3 hp (.inr ⟨rfl, rfl⟩) ((hbk 0).trans hf)
    exact (aborted ((hphase (by omega)).trans hu)).trans hc
  · rintro rfl
    obtain ⟨u, hu, hc⟩ := second_word_fails (s := b) 2 hp (.inr ⟨rfl, rfl⟩) rfl
      ((congrArg TpAnswer.isOk (hbk 0)).trans (hk 2 (by omega))) ((hbk 1).trans hf) hbd
    rw [aborted ((hphase (by omega)).trans hu)]
    simpa [b, a, or_comm] using hc
end

section
/-! PROOFS. The alignment of the controller (O60): a whole byte, a whole read and a backlight word leave it as it
was, and an INIT that succeeds sets it up. -/

namespace Sys2Proof.Machine

/-! ### The enable line -/

/-- The level of the enable line, as the expander's latch holds it (R39, R48). -/
def enableLevel (s : State) : Bool := atSlot s.pm (Memory.read s.bus s.devAddr.toNat) slotE

/-- The controller expects the high nibble of a byte, and the enable line is low (R47, R72). -/
def AtByteStart (s : State) : Prop := s.ctl = .expectsHigh ∧ enableLevel s = false

theorem enableLevel_congr {s t : State} (h1 : t.pm = s.pm) (h2 : t.bus = s.bus) (h3 : t.devAddr = s.devAddr) :
    enableLevel t = enableLevel s := by simp only [enableLevel, h1, h2, h3]

/-- A word that landed sets the line to its own enable level (R60). -/
theorem enableLevel_landWord {s : State} (hm : Memory.wf s.bus = true) :
    enableLevel (landWord s) = atSlot s.pm s.word slotE := by
  simp [enableLevel, hm]

/-! ### A transfer of two nibbles -/

/-- Before this row of a transfer of two nibbles the controller has latched one nibble (R172, R184). -/
def halfSent : RdSample → Npd → Bool
  | _, .assembleLow => true
  | _, .pulseLow => true
  | .duringEnable, .sampleLow => true
  | .afterPulse, .sampleHigh => true
  | .duringEnable, .sampleHigh => false
  | .afterPulse, .sampleLow => false
  | _, .assembleHigh => false
  | _, .pulseHigh => false
  | _, .done => false

/-- This row stands inside an enable pulse (R172, R184). -/
def insidePulse : RdSample → Npd → Bool
  | _, .pulseHigh => true
  | _, .pulseLow => true
  | .duringEnable, .sampleHigh => true
  | .duringEnable, .sampleLow => true
  | .afterPulse, .sampleHigh => false
  | .afterPulse, .sampleLow => false
  | _, .assembleHigh => false
  | _, .assembleLow => false
  | _, .done => false

/-- The row that raises enable opens a pulse. -/
theorem npdNext_assemble (sample : RdSample) (rw : Bool) {q : Npd} (h : q = .assembleHigh ∨ q = .assembleLow) :
    halfSent sample (npdNext sample rw true q) = halfSent sample q ∧
      insidePulse sample (npdNext sample rw true q) = true := by
  rcases h with rfl | rfl <;> cases sample <;> cases rw <;> exact ⟨rfl, rfl⟩

/-- The row that clears enable ends the pulse, and the nibble. -/
theorem npdNext_pulse (sample : RdSample) (rw : Bool) {q : Npd} (h : q = .pulseHigh ∨ q = .pulseLow) :
    halfSent sample (npdNext sample rw true q) = !halfSent sample q ∧
      insidePulse sample q = true ∧ insidePulse sample (npdNext sample rw true q) = false := by
  rcases h with rfl | rfl <;> cases sample <;> cases rw <;> exact ⟨rfl, rfl, rfl⟩

/-- The row that reads changes neither. -/
theorem npdNext_sample (sample : RdSample) (rw : Bool) {q : Npd} (h : q = .sampleHigh ∨ q = .sampleLow) :
    halfSent sample (npdNext sample rw true q) = halfSent sample q ∧
      insidePulse sample (npdNext sample rw true q) = insidePulse sample q := by
  rcases h with rfl | rfl <;> cases sample <;> cases rw <;> exact ⟨rfl, rfl⟩

/-- The controller after one more nibble than `c`, or after as many. -/
def Controller.turned (half : Bool) (c : Controller) : Controller := if half then c.latch else c

theorem Controller.turned_not (half : Bool) (c : Controller) : c.turned (!half) = (c.turned half).latch := by
  cases half <;> simp [Controller.turned]

/-- Where a transfer of two nibbles stands before a row, from a controller at `c`. The level the line has before
the first row does not matter. -/
structure MidByte (c : Controller) (s : State) : Prop where
  len : s.len = true
  ctl : s.ctl = c.turned (halfSent s.prm.rdSample s.npd)
  level : s.npd ≠ .assembleHigh → enableLevel s = insidePulse s.prm.rdSample s.npd

section
variable {c : Controller} {s : State} (hp : PinMap.IsPerm s.pm) (hm : Memory.wf s.bus = true) (h : MidByte c s)
include hm

/-- After a word that was answered the line has its level, and the controller latched on a fall (R66). -/
theorem afterWrite_level (n : Micros) (w : Byte) :
    enableLevel (npdAdvance (wrote n (putWord w s))) = atSlot s.pm w slotE ∧
      (npdAdvance (wrote n (putWord w s))).ctl =
        if enableLevel s && !atSlot s.pm w slotE then s.ctl.latch else s.ctl :=
  ⟨by simp [enableLevel, hm], rfl⟩

include hp h

theorem MidByte.assemble (hq : s.npd = .assembleHigh ∨ s.npd = .assembleLow) :
    MidByte c (npdAdvance (wrote (npdWait s) (putWord (rowWord s) s))) := by
  obtain ⟨hlevel, hctl⟩ := afterWrite_level hm (npdWait s) (rowWord s)
  obtain ⟨hhalf, hpulse⟩ := npdNext_assemble s.prm.rdSample s.rw hq
  have hup : atSlot s.pm (rowWord s) slotE = true := by
    rcases hq with hq | hq <;> simp only [rowWord, hq, atSlot_encWord_enable s hp]
  refine ⟨h.len, ?_, fun _ => ?_⟩
  · rw [hctl, hup, h.ctl]; simp [h.len, hhalf]
  · rw [hlevel, hup]; simp [h.len, hpulse]

theorem MidByte.pulse (hq : s.npd = .pulseHigh ∨ s.npd = .pulseLow) :
    MidByte c (npdAdvance (wrote (npdWait s) (putWord (rowWord s) s))) := by
  obtain ⟨hlevel, hctl⟩ := afterWrite_level hm (npdWait s) (rowWord s)
  obtain ⟨hhalf, hbefore, hafter⟩ := npdNext_pulse s.prm.rdSample s.rw hq
  have hdown : atSlot s.pm (rowWord s) slotE = false := by
    rcases hq with hq | hq <;> simp [rowWord, hq, atSlot_clear_enable s hp]
  have hup : enableLevel s = true := by
    rw [h.level (by rcases hq with hq | hq <;> simp [hq]), hbefore]
  refine ⟨h.len, ?_, fun _ => ?_⟩
  · rw [hctl, hup, hdown, h.ctl]; simp [h.len, hhalf, Controller.turned_not]
  · rw [hlevel, hdown]; simp [h.len, hafter]

omit hp hm in
theorem MidByte.sample (hq : s.npd = .sampleHigh ∨ s.npd = .sampleLow) (b : Byte) :
    MidByte c (npdAdvance (latchRead b (requestDone (issueRead s)))) := by
  obtain ⟨hhalf, hpulse⟩ := npdNext_sample s.prm.rdSample s.rw hq
  refine ⟨by simpa using h.len, by simp [h.len, hhalf, h.ctl], fun _ => ?_⟩
  rw [enableLevel_congr (s := s) (by simp) (by simp) (by simp), h.level (by rcases hq with hq | hq <;> simp [hq])]
  simp [h.len, hpulse]

theorem MidByte.npdStep {t : State} (hn : s.npd ≠ .done) (ht : npdStep s = .going t) : MidByte c t := by
  rcases Npd.writes_or_samples hn with hq | hq
  · obtain rfl := npdStep_write_going hq ht
    rcases or_assoc.2 hq with hq | hq
    · exact h.assemble hp hm hq
    · exact h.pulse hp hm hq
  · obtain ⟨b, rfl⟩ := npdStep_read_going hq ht
    exact h.sample hq b

end

/-- A driver that goes on to `DONE` has sent two nibbles. -/
theorem MidByte.npdRun {c : Controller} {n : Nat} {s t : State} (hp : PinMap.IsPerm s.pm)
    (hm : Memory.wf s.bus = true) (h : MidByte c s) (ht : npdRun n s = .going t) : MidByte c t := by
  induction n generalizing s with
  | zero => cases ht; exact h
  | succ n ih =>
    rw [Machine.npdRun] at ht
    split_ifs at ht with hn
    · cases ht; exact h
    · obtain ⟨u, hu, hrun⟩ := Flow.andThen_eq_going.1 ht
      have k := Flow.rel_going hu (Kept.npdStep s)
      exact ih (by rw [k.pm]; exact hp) (k.canonical hm) (h.npdStep hp hm hn hu) hrun

/-- A transfer of two nibbles that completed left the controller where it was, and the enable line low, wherever
that stood before (R66, R72). -/
theorem xfer_two_going {rs rw : Bool} {v : Byte} {s t : State} (hp : PinMap.IsPerm s.pm)
    (hm : Memory.wf s.bus = true) (h : xfer rs rw v true s = .going t) : t.ctl = s.ctl ∧ enableLevel t = false := by
  have hstart : MidByte s.ctl (xferStart rs rw v true s) :=
    ⟨rfl, by cases hs : s.prm.rdSample <;> simp [hs, halfSent, Controller.turned], fun hn => absurd rfl hn⟩
  have hend := MidByte.npdRun (s := xferStart rs rw v true s) hp hm hstart h
  have hd := (xfer_going h).1
  refine ⟨?_, ?_⟩
  · rw [hend.ctl, hd]; cases t.prm.rdSample <;> rfl
  · rw [hend.level (by simp [hd]), hd]; cases t.prm.rdSample <;> rfl

/-! ### INIT -/

/-- How far INIT has set the controller up, by the step it has come to: in 4-bit mode from step 5 on, and with the
enable line low after the first whole byte (R204, R206). -/
structure SetUp (s : State) : Prop where
  ctl : 5#4 ≤ s.seq → s.ctl = .expectsHigh
  level : 6#4 ≤ s.seq → enableLevel s = false

theorem ownDelay_going {n : Option Micros} {s t : State} (h : ownDelay n s = .going t) :
    t.ctl = s.ctl ∧ enableLevel t = enableLevel s := by
  cases n with
  | none => cases h; exact ⟨rfl, rfl⟩
  | some n => rw [delay_going h]; exact ⟨rfl, rfl⟩

/-- Steps 5 to 9 send whole bytes (R204). -/
theorem seqRow_len {s : State} (h5 : 5#4 ≤ s.seq) (h9 : s.seq ≤ 9#4) :
    ∃ r, seqRow s = some r ∧ r.len = true := by
  have h5 : 5 ≤ s.seq.toNat := h5
  have h9 : s.seq.toNat ≤ 9 := h9
  have h : s.seq.toNat = 5 ∨ s.seq.toNat = 6 ∨ s.seq.toNat = 7 ∨ s.seq.toNat = 8 ∨ s.seq.toNat = 9 := by omega
  rcases h with h | h | h | h | h <;> exact ⟨_, by simp only [seqRow, h]; rfl, rfl⟩

/-- Such a step leaves the controller where it was, and the enable line low. -/
theorem seqAction_byte_going {s t : State} (hp : PinMap.IsPerm s.pm) (hm : Memory.wf s.bus = true)
    (h5 : 5#4 ≤ s.seq) (h9 : s.seq ≤ 9#4) (ht : seqAction s = .going t) :
    t.ctl = s.ctl ∧ enableLevel t = false := by
  obtain ⟨r, hr, hlen⟩ := seqRow_len h5 h9
  simp only [seqAction, hr, seqSend, hlen] at ht
  obtain ⟨u, hu, hd⟩ := Flow.andThen_eq_going.1 ht
  obtain ⟨hctl, hlevel⟩ := xfer_two_going hp hm hu
  obtain ⟨hctl', hlevel'⟩ := ownDelay_going hd
  exact ⟨hctl'.trans hctl, hlevel'.trans hlevel⟩

theorem SetUp.seqStep {s t : State} (hp : PinMap.IsPerm s.pm) (hm : Memory.wf s.bus = true) (h9 : s.seq ≤ 9#4)
    (h : SetUp s) (ht : seqAction s = .going t) : SetUp (seqAdvance t) := by
  have hq : t.seq = s.seq := Flow.rel_going ht (SameSeq.acrossTransfers.seqAction s)
  have hctl : (seqAdvance t).ctl =
      if s.seq = 3#4 then .eightBit else if s.seq = 4#4 then .expectsHigh else t.ctl := by
    rw [← hq]; exact seqEffect_ctl t
  have hnext : ∀ q : BitVec 4, q ≤ 9#4 →
      (5#4 ≤ nextSeq q → q = 4#4 ∨ 5#4 ≤ q) ∧ (6#4 ≤ nextSeq q → 5#4 ≤ q) ∧
        (5#4 ≤ q → q ≠ 3#4 ∧ q ≠ 4#4) := by
    decide
  obtain ⟨hto5, hto6, hne⟩ := hnext s.seq h9
  refine ⟨fun h5 => ?_, fun h6 => ?_⟩
  · rw [seqAdvance_seq, hq] at h5
    rw [hctl]
    rcases hto5 h5 with h4 | h5
    · simp [h4]
    · rw [if_neg (hne h5).1, if_neg (hne h5).2, (seqAction_byte_going hp hm h5 h9 ht).1, h.ctl h5]
  · rw [seqAdvance_seq, hq] at h6
    rw [← (seqAction_byte_going hp hm (hto6 h6) h9 ht).2]
    exact enableLevel_congr (seqEffect_pm t) (seqEffect_bus t) (seqEffect_devAddr t)

theorem SetUp.seqRun {n : Nat} {s t : State} (hp : PinMap.IsPerm s.pm) (hm : Memory.wf s.bus = true)
    (h : SetUp s) (ht : seqRun n s = .going t) : SetUp t := by
  induction n generalizing s with
  | zero => cases ht; exact h
  | succ n ih =>
    rw [Machine.seqRun] at ht
    split_ifs at ht with h9
    · obtain ⟨u, hu, hrun⟩ := Flow.andThen_eq_going.1 ht
      have k := Kept.trans _ _ _ (Flow.rel_going hu (Kept.seqAction s)) (Kept.seqAdvance u)
      exact ih (by rw [k.pm]; exact hp) (k.canonical hm) (h.seqStep hp hm h9 hu) hrun
    · cases ht; exact h

/-- The steps of INIT, all completed, leave the controller at the start of a byte (R206). -/
theorem seqRun_initStart_going {s t : State} (hp : PinMap.IsPerm s.pm) (hm : Memory.wf s.bus = true)
    (h : seqRun 10 (initStart s) = .going t) : AtByteStart t := by
  have hstart : SetUp (initStart s) := ⟨fun h5 => absurd h5 (by simp), fun h6 => absurd h6 (by simp)⟩
  have hend := SetUp.seqRun (s := initStart s) hp hm hstart h
  have h9 : 9#4 < t.seq := seqRun_going_seq (Nat.le_refl 10) h
  have h9 : 9 < t.seq.toNat := h9
  exact ⟨hend.ctl (show 5 ≤ t.seq.toNat by omega), hend.level (show 6 ≤ t.seq.toNat by omega)⟩

/-! ### The operations -/

/-- The framer comes to `READY` from `READY` alone, and the controller stays at the start of a byte. -/
def KeepsByteStart (s t : State) : Prop :=
  condition t = .ready → condition s = .ready ∧ (AtByteStart s → AtByteStart t)

theorem condition_congr {s t : State} (h1 : t.mapValid = s.mapValid) (h2 : t.initOk = s.initOk) :
    condition t = condition s := by simp only [condition, h1, h2]

theorem condition_ready_mapValid {s : State} (h : condition s = .ready) : s.mapValid = true := by
  unfold condition at h
  split at h
  · assumption
  · cases h

theorem KeepsByteStart.of_not_ready {s t : State} (h : condition t ≠ .ready) : KeepsByteStart s t :=
  fun hr => absurd hr h

theorem KeepsByteStart.trans {s t u : State} (h : KeepsByteStart s t) (g : KeepsByteStart t u) :
    KeepsByteStart s u := fun hr =>
  let ⟨ht, htu⟩ := g hr
  let ⟨hs, hst⟩ := h ht
  ⟨hs, htu ∘ hst⟩

/-- An operation that ended, and not in `TRANSPORT_ERROR`, keeps the controller at the start of a byte. -/
def CompletedKeeps (s t : State) : Prop := t.top = .idle → failed t = false → KeepsByteStart s t

theorem CompletedKeeps.checked {s : State} {body : State → State}
    (h : s.mapValid = true → CompletedKeeps s (body s)) : CompletedKeeps s (checked body s) := by
  by_cases hm : s.mapValid = true
  · rw [checked_valid body hm]; exact h hm
  · rw [checked_invalid body (by simpa using hm)]
    exact fun _ _ => .of_not_ready fun hr => hm (condition_ready_mapValid hr)

section
variable {s : State} (hi : Sound s) (hm : s.mapValid = true) (hb : s.top = .busy)
include hi hm hb

/-- A whole byte, or a whole read, and its response. -/
theorem completedKeeps_xfer (rs rw : Bool) (v : Byte) (d : State → Byte) :
    CompletedKeeps s (((xfer rs rw v true s).andThen fun t => .going (respond .ok (d t) t)).settle
      (raise .transportError)) := by
  intro htop hf
  have k := Kept.xfer rs rw v true s
  cases hx : xfer rs rw v true s with
  | going u =>
    rw [hx] at k
    obtain ⟨hctl, hlevel⟩ := xfer_two_going (hi.mapIsPerm hm) hi.busCanonical hx
    exact fun hr => ⟨(condition_congr k.mapValid k.initOk).symm.trans hr, fun h => ⟨hctl.trans h.1, hlevel⟩⟩
  | aborted u => rw [hx] at hf; cases hf
  | waiting u =>
    rw [hx] at k htop
    rw [Flow.waiting_andThen, Flow.waiting_settle, show u.top = .busy from k.top.trans hb] at htop
    cases htop

theorem completedKeeps_byteBody (rs : Bool) : CompletedKeeps s (byteBody rs s) :=
  completedKeeps_xfer hi hm hb rs false s.a0 fun _ => 0#8

theorem completedKeeps_rdbfBody (h : s.prm.bfFullCycle = true) : CompletedKeeps s (rdbfBody s) := by
  unfold rdbfBody
  rw [h]
  exact completedKeeps_xfer hi hm hb false true 0xFF#8 fun t => 0#7 ++ BitVec.ofBool (busyFlag t)

theorem completedKeeps_rdacBody : CompletedKeeps s (rdacBody s) :=
  completedKeeps_xfer hi hm hb false true 0xFF#8 fun t => 0#1 ++ addressCounter t

end

/-! ### BACKLIGHT -/

theorem AtByteStart.congr {s t : State} (h : AtByteStart s) (h0 : t.ctl = s.ctl) (h1 : t.pm = s.pm)
    (h2 : t.bus = s.bus) (h3 : t.devAddr = s.devAddr) : AtByteStart t :=
  ⟨h0.trans h.1, (enableLevel_congr h1 h2 h3).trans h.2⟩

/-- A word with enable low, written while the line is low, makes no falling edge (R66, R263). -/
theorem AtByteStart.landWord {s : State} (h : AtByteStart s) (hm : Memory.wf s.bus = true)
    (hw : atSlot s.pm s.word slotE = false) : AtByteStart (landWord s) := by
  have hbefore : atSlot s.pm (Memory.read s.bus s.devAddr.toNat) slotE = false := h.2
  refine ⟨?_, (enableLevel_landWord hm).trans hw⟩
  rw [landWord_ctl, enableFalls, hbefore]
  exact h.1

/-- Whether a failed write of such a word landed makes no difference. -/
theorem AtByteStart.maybeLandWord {s : State} (h : AtByteStart s) (hm : Memory.wf s.bus = true)
    (hw : atSlot s.pm s.word slotE = false) : AtByteStart (maybeLandWord s) := by
  by_cases hl : Config.freeLanded s.free = true
  · exact (h.landWord hm hw).congr (by simp [hl]) rfl (by simp [hl]) rfl
  · exact h.congr (by simp [hl]) rfl (by simp [hl]) rfl

theorem AtByteStart.receiveWrite {s : State} (h : AtByteStart s) (hm : Memory.wf s.bus = true)
    (hw : atSlot s.pm s.word slotE = false) : AtByteStart (receiveWrite s).state := by
  have hd : AtByteStart (requestDone s) := h.congr (by simp) (by simp) (by simp) (by simp)
  unfold Machine.receiveWrite
  split
  · exact hd.landWord (by simpa using hm) (by simpa using hw)
  · exact hd.maybeLandWord (by simpa using hm) (by simpa using hw)
  · exact h

theorem AtByteStart.delay {s : State} (h : AtByteStart s) (n : Micros) : AtByteStart (delay n s).state := by
  unfold Machine.delay receiveDelay
  split
  · exact h.congr rfl rfl rfl rfl
  · exact h.congr rfl rfl rfl rfl
  · exact h.congr rfl rfl rfl rfl

/-- BACKLIGHT keeps the controller at the start of a byte even where its write fails (R263). -/
theorem keepsByteStart_backlightBody {s : State} (hi : Sound s) (hm : s.mapValid = true) :
    KeepsByteStart s (backlightBody s) := by
  have hlow : atSlot s.pm (blMask (backlightWord s)) slotE = false :=
    (atSlot_blMask (backlightWord s) (hi.mapIsPerm hm) slotE).trans (by simp [slotE, slotBL])
  have hstart (h : AtByteStart s) :
      AtByteStart ((receiveWrite (issueWrite (backlightWord s))).andThen (delay s.prm.tSettle)).state :=
    Flow.rel_andThen (R := fun a b => AtByteStart a → AtByteStart b) (fun _ _ _ f g => g ∘ f)
      (s := issueWrite (backlightWord s)) (fun h' => h'.receiveWrite hi.busCanonical hlow)
      (fun t _ h' => h'.delay _) (h.congr rfl rfl rfl rfl)
  have k := Kept.acrossCalls.writeThenDelay s.prm.tSettle (backlightWord s)
  unfold backlightBody
  generalize (receiveWrite (issueWrite (backlightWord s))).andThen (Machine.delay s.prm.tSettle) = f at k hstart
  have hcond : condition f.state = condition s := condition_congr k.mapValid k.initOk
  cases f with
  | going u => exact fun hr => ⟨hcond.symm.trans hr, fun h => (hstart h).congr rfl rfl rfl rfl⟩
  | aborted u => exact fun hr => ⟨hcond.symm.trans hr, fun h => (hstart h).congr rfl rfl rfl rfl⟩
  | waiting u => exact fun hr => ⟨hcond.symm.trans hr, hstart⟩

/-! ### INIT, the layer, and every instruction -/

theorem not_ready_of_initOk {s : State} (h : s.initOk = false) : condition s ≠ .ready := by
  unfold condition
  rw [h]
  split <;> simp

/-- An INIT that ends `READY` has set the controller up (R211). -/
theorem initBody_ready {s : State} (hi : Sound s) (hm : s.mapValid = true)
    (hr : condition (initBody s) = .ready) : AtByteStart (initBody s) := by
  have k := Kept.seqRun 10 (initStart s)
  unfold initBody at hr ⊢
  cases hx : seqRun 10 (initStart s) with
  | going u => exact (seqRun_initStart_going (hi.mapIsPerm hm) hi.busCanonical hx).congr rfl rfl rfl rfl
  | aborted u => rw [hx] at hr; exact absurd hr (not_ready_of_initOk rfl)
  | waiting u => rw [hx] at hr k; exact absurd hr (not_ready_of_initOk k.initOk)

/-- An update that touches neither the condition, nor the controller, nor the latches. -/
theorem KeepsByteStart.of_same {s t : State} (h0 : t.mapValid = s.mapValid) (h1 : t.initOk = s.initOk)
    (h2 : t.ctl = s.ctl) (h3 : t.pm = s.pm) (h4 : t.bus = s.bus) (h5 : t.devAddr = s.devAddr) :
    KeepsByteStart s t := fun hr => ⟨(condition_congr h0 h1).symm.trans hr, fun h => h.congr h2 h3 h4 h5⟩

theorem CompletedKeeps.after {s s' t : State} (h : CompletedKeeps s' t) (hs : KeepsByteStart s s') :
    CompletedKeeps s t := fun htop hf => hs.trans (h htop hf)

theorem keepsByteStart_accept (op : BitVec 4) (a0 a1 a2 : Byte) (s : State) :
    KeepsByteStart s (accept op a0 a1 a2 s) := .of_same rfl rfl rfl rfl rfl rfl

/-- CMD and DATA, from the accepted word on. -/
theorem completedKeeps_sent {s : State} (hi : Sound s) (op : BitVec 4) (byte a1 a2 : Byte) (rs : Bool) :
    CompletedKeeps s (checked (byteBody rs) (accept op byte a1 a2 s)) :=
  (CompletedKeeps.checked fun hm => completedKeeps_byteBody (hi.accept op byte a1 a2) hm rfl rs).after
    (keepsByteStart_accept op byte a1 a2 s)

theorem Sound.layerIssue {s : State} (hi : Sound s) (w : CmdWord) : Sound (layerIssue w s) := { hi with }

theorem completedKeeps_layerCmd {s : State} (hi : Sound s) (byte : Byte) : CompletedKeeps s (layerCmd byte s) :=
  (completedKeeps_sent (hi.layerIssue _) opCmd byte 0#8 0#8 false).after (.of_same rfl rfl rfl rfl rfl rfl)

theorem completedKeeps_layerData {s : State} (hi : Sound s) (byte : Byte) : CompletedKeeps s (layerData byte s) :=
  (completedKeeps_sent (hi.layerIssue _) opData byte 0#8 0#8 true).after (.of_same rfl rfl rfl rfl rfl rfl)

theorem CompletedKeeps.layerWait {s t : State} (h : CompletedKeeps s t) : CompletedKeeps s (layerWait t) := by
  unfold Machine.layerWait
  split <;> exact h

theorem succeeded_not_failed {s : State} (h : succeeded s = true) : failed s = false := by
  simp only [succeeded, Bool.and_eq_true, beq_iff_eq] at h
  simp [failed, h.2]

/-- The bytes of a glyph: each is sent after one that succeeded, and the last one sent decides (R270). -/
theorem CompletedKeeps.layerPattern (l : List Byte) {s t : State} (hi : Inv t) (h : CompletedKeeps s t) :
    CompletedKeeps s (layerPattern l t) := by
  induction l generalizing t with
  | nil => exact h
  | cons b r ih =>
    rw [Machine.layerPattern]
    split
    next hs =>
      have hidle := succeeded_top hs
      refine ih (hi.layerData hidle b) fun htop hf => ?_
      exact (h hidle (succeeded_not_failed hs)).trans (completedKeeps_layerData hi.sound b htop hf)
    next => exact h

/-- What an input of each use does for the alignment, where it ends idle. -/
def ServesAlignment (s t : State) : Use → Prop
  | .init => condition t = .ready → AtByteStart t
  | .backlight | .outside => KeepsByteStart s t
  | .send _ | .poll | .counter | .layer _ => failed t = false → KeepsByteStart s t
  | .foreign => True

theorem exec_servesAlignment {i : Instr} {s t : State} (hi : Inv s) (hfull : s.prm.bfFullCycle = true)
    (he : exec i s = .next t) (ht : t.top = .idle) : ServesAlignment s t (instrUse i) := by
  have hs := hi.sound
  cases i <;> cases he
  case init c r f =>
    intro hr
    by_cases hm : s.mapValid = true
    · rw [checked_valid (s := accept opInit c r f s) _ hm] at hr ⊢
      exact initBody_ready (hs.accept opInit c r f) hm hr
    · rw [checked_invalid (s := accept opInit c r f s) _ (by simpa using hm)] at hr
      exact absurd (condition_ready_mapValid hr) hm
  case cmd b a1 a2 => exact completedKeeps_sent hs opCmd b a1 a2 false ht
  case data b a1 a2 => exact completedKeeps_sent hs opData b a1 a2 true ht
  case backlight on a1 a2 =>
    refine (keepsByteStart_accept opBacklight on a1 a2 s).trans ?_
    by_cases hm : s.mapValid = true
    · rw [checked_valid (s := accept opBacklight on a1 a2 s) _ hm]
      exact keepsByteStart_backlightBody (hs.accept opBacklight on a1 a2) hm
    · rw [checked_invalid (s := accept opBacklight on a1 a2 s) _ (by simpa using hm)]
      exact .of_not_ready fun hr => hm (condition_ready_mapValid hr)
  case rdbf a0 a1 a2 =>
    exact ((CompletedKeeps.checked fun hm => completedKeeps_rdbfBody (hs.accept opRdbf a0 a1 a2) hm rfl hfull).after
      (keepsByteStart_accept opRdbf a0 a1 a2 s)) ht
  case rdac a0 a1 a2 =>
    exact ((CompletedKeeps.checked fun hm => completedKeeps_rdacBody (hs.accept opRdac a0 a1 a2) hm rfl).after
      (keepsByteStart_accept opRdac a0 a1 a2 s)) ht
  case kProbe | kSwitch4 | kFuncset | kDisplayOff | kClear | kEntryLtr | kDisplayOn => trivial
  case clear | home => exact (completedKeeps_layerCmd hs _).layerWait ht
  case displayctl d c b =>
    exact (completedKeeps_layerCmd (s := displayFlags d c b s) { hs with } _).after
      (.of_same rfl rfl rfl rfl rfl rfl) ht
  case entrymode ltr auto =>
    exact (completedKeeps_layerCmd (s := entryFlags ltr auto s) { hs with } _).after
      (.of_same rfl rfl rfl rfl rfl rfl) ht
  case setddram | shift | setcgram => exact completedKeeps_layerCmd hs _ ht

theorem runCall_completedKeeps {c : LayerCall} {s t : State} (hi : Inv s) (hidle : s.top = .idle)
    (hfull : s.prm.bfFullCycle = true) (hc : runCall c s = .next t) (ht : t.top = .idle) (hf : failed t = false) :
    KeepsByteStart s t := by
  cases c
  case clear => exact exec_servesAlignment (i := .clear) hi hfull hc ht hf
  case home => exact exec_servesAlignment (i := .home) hi hfull hc ht hf
  case setCursor col row =>
    unfold Machine.runCall at hc
    dsimp only at hc
    split at hc
    next a _ => exact exec_servesAlignment (i := .setddram a) hi hfull hc ht hf
    next => cases hc
  case display on => exact exec_servesAlignment (i := .displayctl on s.curOn s.blinkOn) hi hfull hc ht hf
  case cursor on => exact exec_servesAlignment (i := .displayctl s.dispOn on s.blinkOn) hi hfull hc ht hf
  case blink on => exact exec_servesAlignment (i := .displayctl s.dispOn s.curOn on) hi hfull hc ht hf
  case entryDir ltr => exact exec_servesAlignment (i := .entrymode ltr s.autoscroll) hi hfull hc ht hf
  case autoscroll on => exact exec_servesAlignment (i := .entrymode s.entryLtr on) hi hfull hc ht hf
  case scroll right => exact exec_servesAlignment (i := .shift right) hi hfull hc ht hf
  case loadGlyph slot pattern =>
    cases hc
    have hg : Inv (takeGlyph pattern s) := { hi with }
    have hcmd := (completedKeeps_layerCmd hg.sound (setcgramByte (cgramAddress s.font slot))).after
      (s := s) (.of_same rfl rfl rfl rfl rfl rfl)
    exact hcmd.layerPattern _ (hg.layerCmd hidle _) ht hf
  case barGraph => cases hc

/-- Every input a host may give to an idle framer but a loss of the display's power. -/
theorem idleInput_servesAlignment {e : HostEvent} {s t : State} (hi : Inv s) (hidle : s.top = .idle)
    (hfull : s.prm.bfFullCycle = true) (hp : e ≠ .powerLoss) (he : idleInput e s = .next t) (ht : t.top = .idle) :
    ServesAlignment s t e.use := by
  cases e
  case fetch f =>
    change fetchStep f s = .next t at he
    unfold fetchStep at he
    split at he
    next i hd => rw [fetch_use hd]; exact exec_servesAlignment hi hfull he ht
    next x hd => rw [fetch_use_of_error hd]; trivial
  case call c => exact runCall_completedKeeps hi hidle hfull he ht
  case wait us => cases he; exact KeepsByteStart.of_same rfl rfl rfl rfl rfl rfl
  case reset decl pol addr => cases he; exact KeepsByteStart.of_not_ready (not_ready_of_initOk rfl)
  case powerLoss => exact absurd rfl hp

/-! ### The host's duties -/

/-- An input that serves the alignment, given by a host with these duties, leaves the framer aligned with those
it has then. -/
theorem ServesAlignment.aligned {d : Duties} {e : HostEvent} {s t : State} (h : ServesAlignment s t e.use)
    (hu : e.use ≠ .foreign) (ha : Aligned d s) : Aligned (d.next s t e) t := by
  intro hready hre hun
  have kept (hk : KeepsByteStart s t) (hre : d.reinit = false) (hun : d.unpowered = false) : AtByteStart t :=
    let ⟨hs, hst⟩ := hk hready
    hst (ha hs hre hun)
  unfold Duties.next at hre hun
  dsimp only at hre hun
  cases huse : e.use <;> rw [huse] at h hre hun <;> simp only [Bool.or_eq_false_iff] at hre hun
  case init => exact h hready
  case backlight => exact kept h hre hun.1
  case outside => exact kept h hre hun.1
  case foreign => exact absurd huse hu
  case send | poll | counter | layer => exact kept (h hre.2) hre.1 hun.1

/-- After a loss of the display's power the host owes an INIT (R360). -/
theorem aligned_powerLoss (d : Duties) (s t : State) : Aligned (d.next s t .powerLoss) t :=
  fun _ _ hun => by simp [Duties.next] at hun

end Sys2Proof.Machine

open Sys2Proof Sys2Proof.Machine

/-- Settles O60: a step of an idle framer without an input changes nothing of it; each input the host may give
serves the alignment, by its use; and after a loss of power an INIT is owed. -/
theorem hostRulesKeepTheControllerAligned : Obligations.HostRulesKeepTheControllerAligned := by
  intro bound d s t hi hidle hfull hord ha hs ht
  cases hin : s.hostIn with
  | nil =>
    rw [step_idle_nil hidle hin] at hs
    cases hs
    rw [Duties.step_of_none (inputTaken_none hin)]
    exact ha
  | cons e rest =>
    have htaken := inputTaken_idle hidle hin
    rw [step_idle_cons hidle hin] at hs
    rw [Duties.step_of_some htaken]
    simp only [hostInOrder, htaken] at hord
    by_cases hp : e = .powerLoss
    · subst hp; exact aligned_powerLoss d s t
    · have hserves : ServesAlignment s t e.use :=
        idleInput_servesAlignment (s := { s with hostIn := rest }) { hi with } hidle hfull hp hs ht
      exact hserves.aligned (Duties.keeps_iff.1 hord).1 ha
end

section
/-! PROOFS. The encoding: a command word is its four fields, and the bytes of a row are those its encoder writes, so
decoding and encoding are inverse from every place (O1 to O4). -/

namespace Sys2Proof

/-! ### Command words by their fields (R95) -/

section
variable (op : BitVec 4) (a0 a1 a2 : Byte)

/-- Above the last byte a command word reads as its first three fields do. -/
theorem extractLsb'_cmdWord (start len : Nat) :
    (cmdWord op a0 a1 a2).extractLsb' (8 + start) len = (op ++ a0 ++ a1).extractLsb' start len :=
  (BitVec.extractLsb'_append_eq_of_le (xhi := op ++ a0 ++ a1) (Nat.le_add_right 8 start)).trans
    (by rw [Nat.add_sub_cancel_left])

@[simp] theorem cmdA2_cmdWord : cmdA2 (cmdWord op a0 a1 a2) = a2 :=
  BitVec.extractLsb'_append_eq_right (a := op ++ a0 ++ a1)

@[simp] theorem cmdA1_cmdWord : cmdA1 (cmdWord op a0 a1 a2) = a1 :=
  (extractLsb'_cmdWord op a0 a1 a2 0 8).trans (BitVec.extractLsb'_append_eq_right (a := op ++ a0))

@[simp] theorem cmdA0_cmdWord : cmdA0 (cmdWord op a0 a1 a2) = a0 := by
  refine (extractLsb'_cmdWord op a0 a1 a2 8 8).trans ?_
  rw [BitVec.extractLsb'_append_eq_of_le (Nat.le_refl 8)]
  exact BitVec.extractLsb'_append_eq_right (a := op)

@[simp] theorem cmdOp_cmdWord : cmdOp (cmdWord op a0 a1 a2) = op := by
  refine (extractLsb'_cmdWord op a0 a1 a2 16 4).trans ?_
  rw [BitVec.extractLsb'_append_eq_of_le (by decide)]
  exact BitVec.extractLsb'_append_eq_left (a := op)

end

/-- The four fields are the whole word. -/
theorem cmdWord_fields (w : CmdWord) : cmdWord (cmdOp w) (cmdA0 w) (cmdA1 w) (cmdA2 w) = w := by
  have h12 : cmdOp w ++ cmdA0 w = w.extractLsb' 16 12 := BitVec.extractLsb'_append_extractLsb'_eq_extractLsb' rfl
  have h20 : w.extractLsb' 16 12 ++ cmdA1 w = w.extractLsb' 8 20 :=
    BitVec.extractLsb'_append_extractLsb'_eq_extractLsb' rfl
  rw [cmdWord, h12, h20]
  exact BitVec.extractLsb'_append_extractLsb' (w := 20) (len := 8)

/-- The instruction of a command word by its opcode (R96, R98). -/
def portInstr (op : BitVec 4) (a0 a1 a2 : Byte) : Except DecodeError Instr :=
  if op = opInit then .ok (.init a0 a1 a2)
  else if op = opCmd then .ok (.cmd a0 a1 a2)
  else if op = opData then .ok (.data a0 a1 a2)
  else if op = opBacklight then .ok (.backlight a0 a1 a2)
  else if op = opRdbf then .ok (.rdbf a0 a1 a2)
  else if op = opRdac then .ok (.rdac a0 a1 a2)
  else .error (.reservedOpcode op)

theorem decodePort_eq (w : CmdWord) : decodePort w = portInstr (cmdOp w) (cmdA0 w) (cmdA1 w) (cmdA2 w) := rfl

theorem decodePort_cmdWord (op : BitVec 4) (a0 a1 a2 : Byte) :
    decodePort (cmdWord op a0 a1 a2) = portInstr op a0 a1 a2 := by simp [decodePort_eq]

theorem decodePort_of_cmdOp {w : CmdWord} {op : BitVec 4} (h : cmdOp w = op) :
    decodePort w = portInstr op (cmdA0 w) (cmdA1 w) (cmdA2 w) := h ▸ decodePort_eq w

theorem encode_of_portInstr {op : BitVec 4} {a0 a1 a2 : Byte} {i : Instr} (h : portInstr op a0 a1 a2 = .ok i) :
    encode i = .port (cmdWord op a0 a1 a2) := by
  unfold portInstr at h
  split_ifs at h <;> (cases h; rw [‹op = _›]; rfl)

/-- The opcodes R98 reserves are those that R96 gives to no operation. -/
theorem portInstr_reserved {op : BitVec 4} (h : op = 0#4 ∨ 7#4 ≤ op) (a0 a1 a2 : Byte) :
    portInstr op a0 a1 a2 = .error (.reservedOpcode op) := by
  have hne : ∀ op : BitVec 4, op = 0#4 ∨ 7#4 ≤ op →
      op ≠ opInit ∧ op ≠ opCmd ∧ op ≠ opData ∧ op ≠ opBacklight ∧ op ≠ opRdbf ∧ op ≠ opRdac := by decide
  obtain ⟨h1, h2, h3, h4, h5, h6⟩ := hne op h
  simp only [portInstr, h1, h2, h3, h4, h5, h6, if_false]

/-! ### Command words by mask and match (R106) -/

/-- The mask of the CMDPORT rows keeps the opcode, in its place. -/
theorem and_opcodeMask (w : CmdWord) : w &&& 0xF000000#28 = cmdOp w ++ 0#24 := by
  have h := Laws.TableBits.cmdWord_op (cmdOp w) (cmdA0 w) (cmdA1 w) (cmdA2 w)
  rwa [cmdWord_fields] at h

theorem cmdOp_of_match {w : CmdWord} {op : BitVec 4} (h : w &&& 0xF000000#28 = op ++ 0#24) : cmdOp w = op :=
  (BitVec.append_left_inj 0#24).1 ((and_opcodeMask w).symm.trans h)

theorem cmdOp_toNat (w : CmdWord) : (cmdOp w).toNat = w.toNat / 0x1000000 := by
  have := w.isLt
  rw [cmdOp, BitVec.extractLsb'_toNat, Nat.shiftRight_eq_div_pow]
  omega

theorem le_cmdOp {w : CmdWord} (h : 0x7000000#28 ≤ w) : 7#4 ≤ cmdOp w := by
  have hw : 0x7000000 ≤ w.toNat := h
  have hop : 7 ≤ (cmdOp w).toNat := by rw [cmdOp_toNat]; omega
  exact hop

/-! ### The bytes of each row (R100, R275 to R279) -/

theorem probeByte_of_high : ∀ v : Byte, v.extractLsb' 4 4 = 0x3#4 → probeByte (v.extractLsb' 0 4) = v := by decide
theorem switch4Byte_of_high : ∀ v : Byte, v.extractLsb' 4 4 = 0x2#4 → switch4Byte (v.extractLsb' 0 4) = v := by decide
theorem funcsetByte_of_match :
    ∀ v : Byte, v &&& 0xF3#8 = 0x20#8 → funcsetByte (v.getLsbD 3) (v.getLsbD 2) = v := by decide
theorem setddramByte_of_high : ∀ v : Byte, v.getLsbD 7 = true → setddramByte (v.extractLsb' 0 7) = v := by decide
theorem setcgramByte_of_high :
    ∀ v : Byte, ¬ v.getLsbD 7 = true → v.getLsbD 6 = true → setcgramByte (v.extractLsb' 0 6) = v := by decide
theorem shiftByte_of_match : ∀ v : Byte, v &&& 0xFB#8 = 0x18#8 → shiftByte (v.getLsbD 2) = v := by decide
theorem displayctlByte_of_match :
    ∀ v : Byte, v &&& 0xF8#8 = 0x08#8 → displayctlByte (v.getLsbD 2) (v.getLsbD 1) (v.getLsbD 0) = v := by decide
theorem entrymodeByte_of_match :
    ∀ v : Byte, v &&& 0xFC#8 = 0x04#8 → entrymodeByte (v.getLsbD 1) (v.getLsbD 0) = v := by decide

theorem encode_of_decodeSequencerNibble {v : Byte} {i : Instr} (h : decodeSequencerNibble v = .ok i) :
    encode i = .sequencer false v := by
  unfold decodeSequencerNibble at h
  split_ifs at h with h1 h2
  · cases h; exact congrArg (Fetched.sequencer false) (probeByte_of_high v h1)
  · cases h; exact congrArg (Fetched.sequencer false) (switch4Byte_of_high v h2)

theorem encode_of_decodeSequencerByte {v : Byte} {i : Instr} (h : decodeSequencerByte v = .ok i) :
    encode i = .sequencer true v := by
  unfold decodeSequencerByte at h
  split_ifs at h with h1 h2 h3 h4 h5
  · cases h; rw [h1]; rfl
  · cases h; rw [h2]; rfl
  · cases h; rw [h3]; rfl
  · cases h; rw [h4]; rfl
  · cases h; exact congrArg (Fetched.sequencer true) (funcsetByte_of_match v h5)

theorem encode_of_decodeLayer {v : Byte} {i : Instr} (h : decodeLayer v = .ok i) : encode i = .layer v := by
  unfold decodeLayer at h
  split_ifs at h with h7 h6 hs hd he hh hc
  · cases h; exact congrArg Fetched.layer (setddramByte_of_high v h7)
  · cases h; exact congrArg Fetched.layer (setcgramByte_of_high v h7 h6)
  · cases h; exact congrArg Fetched.layer (shiftByte_of_match v hs)
  · cases h; exact congrArg Fetched.layer (displayctlByte_of_match v hd)
  · cases h; exact congrArg Fetched.layer (entrymodeByte_of_match v he)
  · cases h; rw [hh]; rfl
  · cases h; rw [hc]; rfl

/-- What decodes to an instruction is that instruction's encoding, place by place. -/
theorem encode_of_decode {f : Fetched} {i : Instr} (h : decode f = .ok i) : encode i = f := by
  match f with
  | .port w => rw [encode_of_portInstr (h : portInstr _ _ _ _ = .ok i), cmdWord_fields]
  | .sequencer false v => exact encode_of_decodeSequencerNibble h
  | .sequencer true v => exact encode_of_decodeSequencerByte h
  | .layer v => exact encode_of_decodeLayer h

theorem decode_encode_kProbe : ∀ x : Nibble, decode (encode (.kProbe x)) = .ok (.kProbe x) := by decide
theorem decode_encode_kSwitch4 : ∀ x : Nibble, decode (encode (.kSwitch4 x)) = .ok (.kSwitch4 x) := by decide
theorem decode_encode_kFuncset : ∀ n f : Bool, decode (encode (.kFuncset n f)) = .ok (.kFuncset n f) := by decide
theorem decode_encode_setddram : ∀ a : BitVec 7, decode (encode (.setddram a)) = .ok (.setddram a) := by decide
theorem decode_encode_displayctl :
    ∀ d c b : Bool, decode (encode (.displayctl d c b)) = .ok (.displayctl d c b) := by decide
theorem decode_encode_entrymode : ∀ i s : Bool, decode (encode (.entrymode i s)) = .ok (.entrymode i s) := by decide
theorem decode_encode_shift : ∀ r : Bool, decode (encode (.shift r)) = .ok (.shift r) := by decide
theorem decode_encode_setcgram : ∀ a : BitVec 6, decode (encode (.setcgram a)) = .ok (.setcgram a) := by decide

/-- Decoding an encoding gives the instruction back: a command word by its opcode, a byte by its place. -/
theorem decode_encode (i : Instr) : decode (encode i) = .ok i := by
  cases i with
  | init a b c => exact decodePort_cmdWord opInit a b c
  | cmd a b c => exact decodePort_cmdWord opCmd a b c
  | data a b c => exact decodePort_cmdWord opData a b c
  | backlight a b c => exact decodePort_cmdWord opBacklight a b c
  | rdbf a b c => exact decodePort_cmdWord opRdbf a b c
  | rdac a b c => exact decodePort_cmdWord opRdac a b c
  | kProbe x => exact decode_encode_kProbe x
  | kSwitch4 x => exact decode_encode_kSwitch4 x
  | kFuncset n f => exact decode_encode_kFuncset n f
  | setddram a => exact decode_encode_setddram a
  | displayctl d c b => exact decode_encode_displayctl d c b
  | entrymode l s => exact decode_encode_entrymode l s
  | shift r => exact decode_encode_shift r
  | setcgram a => exact decode_encode_setcgram a
  | kDisplayOff | kClear | kEntryLtr | kDisplayOn | clear | home => rfl

end Sys2Proof

open Sys2Proof Sys2Proof.Machine

/-- Settles O1, constructor by constructor: a command word gives its fields back, and no row of the same place
takes another row's byte. -/
theorem decodeOfEncodeIsTheInstruction : Obligations.DecodeOfEncodeIsTheInstruction := decode_encode

/-- Settles O2: each row's test of the word fixes every bit that is not an operand. -/
theorem encodeOfDecodeIsTheWord : Obligations.EncodeOfDecodeIsTheWord := fun _ _ => encode_of_decode

/-- Settles O3: masked, a word tells its opcode, and its fields are the arguments; the reserved words are those
whose opcode is none of R96. -/
theorem commandPortDecodesByMatchAndMask : Obligations.CommandPortDecodesByMatchAndMask := by
  intro w
  have named {op : BitVec 4} (h : w &&& 0xF000000#28 = op ++ 0#24) :
      decode (.port w) = portInstr op (cmdA0 w) (cmdA1 w) (cmdA2 w) := decodePort_of_cmdOp (cmdOp_of_match h)
  refine ⟨named (op := opInit), named (op := opCmd), named (op := opData), named (op := opBacklight),
    named (op := opRdbf), named (op := opRdac), fun h => portInstr_reserved (h.imp ?_ le_cmdOp) _ _ _⟩
  exact cmdOp_of_match (op := 0#4)

/-- Settles O4: ten closed words, decoded. -/
theorem writtenOutWordsDecode : Obligations.WrittenOutWordsDecode := by
  unfold Obligations.WrittenOutWordsDecode
  decide
end

section
/-! PROOFS. What the sequencer's table sends (O5), relocation both ways (O7), and the values read back (O11). -/

namespace Sys2Proof.Machine

/-! ### The rows of the sequencer's table -/

/-- The function set byte is 0x2C for two lines with the large font alone (R100, R205). -/
theorem funcsetByte_ne_0x2C : ∀ n f : Bool, (Instr.kFuncset n f).wf = true → funcsetByte n f ≠ 0x2C#8 := by decide

/-- R26, R205: the stored geometry never asks for both. -/
theorem kFuncset_wf {s : State} (h : s.font = true → s.rows ≤ 1#8) :
    (Instr.kFuncset (twoLines s.rows) s.font).wf = true := by
  cases hf : s.font with
  | false => simp [Instr.wf]
  | true =>
    have : s.rows.toNat ≤ 1 := h hf
    have hrows : ¬ 1 < s.rows.toNat := by omega
    simp [Instr.wf, twoLines, BitVec.lt_def, hrows]

/-- The sequencer's step is the encoding of a well-formed instruction, and not 0x2C. -/
def SendsRow (s : State) (i : Instr) : Prop :=
  ∃ r : SeqRow, seqRow s = some r ∧ encode i = .sequencer r.len r.val ∧ i.wf = true ∧ r.val ≠ 0x2C#8

/-- Steps 1 to 9 send rows (R204). -/
theorem exists_sendsRow {s : State} (hfont : s.font = true → s.rows ≤ 1#8) (h1 : 1#4 ≤ s.seq) (h9 : s.seq ≤ 9#4) :
    ∃ i : Instr, SendsRow s i := by
  have hlo : 1 ≤ s.seq.toNat := h1
  have hhi : s.seq.toNat ≤ 9 := h9
  unfold SendsRow seqRow
  interval_cases s.seq.toNat
  · exact ⟨.kProbe 0#4, _, rfl, rfl, rfl, (by decide : probeByte 0#4 ≠ 0x2C#8)⟩
  · exact ⟨.kProbe 0#4, _, rfl, rfl, rfl, (by decide : probeByte 0#4 ≠ 0x2C#8)⟩
  · exact ⟨.kProbe 0#4, _, rfl, rfl, rfl, (by decide : probeByte 0#4 ≠ 0x2C#8)⟩
  · exact ⟨.kSwitch4 0#4, _, rfl, rfl, rfl, by decide⟩
  · exact ⟨_, _, rfl, rfl, kFuncset_wf hfont, funcsetByte_ne_0x2C _ _ (kFuncset_wf hfont)⟩
  · exact ⟨.kDisplayOff, _, rfl, rfl, rfl, by decide⟩
  · exact ⟨.kClear, _, rfl, rfl, rfl, (by decide : 0x01#8 ≠ 0x2C#8)⟩
  · exact ⟨.kEntryLtr, _, rfl, rfl, rfl, by decide⟩
  · exact ⟨.kDisplayOn, _, rfl, rfl, rfl, by decide⟩

/-! ### Relocation -/

theorem log_phys {pm : PinMap} (h : PinMap.IsPerm pm) (l : Byte) : log pm (phys pm l) = l := by
  apply BitVec.eq_of_getLsbD_eq
  intro k hk
  exact (log_getLsbD pm (phys pm l) ⟨k, hk⟩).trans (atSlot_phys h l ⟨k, hk⟩)

theorem phys_log {pm : PinMap} (h : PinMap.IsPerm pm) (p : Byte) : phys pm (log pm p) = p :=
  ext_atSlot h fun i => (atSlot_phys h (log pm p) i).trans (log_getLsbD pm p i)

/-! ### The values read back -/

/-- The four data lines among eight levels, and the lower three of them (R90). -/
theorem levels_dataLines : ∀ b7 b6 b5 b4 b3 b2 b1 b0 : Bool,
    let w : Byte := BitVec.ofBool b7 ++ BitVec.ofBool b6 ++ BitVec.ofBool b5 ++ BitVec.ofBool b4 ++
      BitVec.ofBool b3 ++ BitVec.ofBool b2 ++ BitVec.ofBool b1 ++ BitVec.ofBool b0
    w.extractLsb' 1 4 = BitVec.ofBool b4 ++ BitVec.ofBool b3 ++ BitVec.ofBool b2 ++ BitVec.ofBool b1 ∧
    w.extractLsb' 1 3 = BitVec.ofBool b3 ++ BitVec.ofBool b2 ++ BitVec.ofBool b1 := by decide

/-- Three levels, then four, are the seven in a row. -/
theorem levels_three_four : ∀ b6 b5 b4 b3 b2 b1 b0 : Bool,
    BitVec.ofBool b6 ++ BitVec.ofBool b5 ++ BitVec.ofBool b4 ++
        BitVec.ofBool b3 ++ BitVec.ofBool b2 ++ BitVec.ofBool b1 ++ BitVec.ofBool b0 =
      (BitVec.ofBool b6 ++ BitVec.ofBool b5 ++ BitVec.ofBool b4) ++
        (BitVec.ofBool b3 ++ BitVec.ofBool b2 ++ BitVec.ofBool b1 ++ BitVec.ofBool b0) := by decide

theorem addressCounter_eq (s : State) :
    addressCounter s = (log s.pm s.rdHi).extractLsb' 1 3 ++ (log s.pm s.rdLo).extractLsb' 1 4 := by
  rw [log, log, (levels_dataLines _ _ _ _ _ _ _ _).2, (levels_dataLines _ _ _ _ _ _ _ _).1]
  exact levels_three_four _ _ _ _ _ _ _

end Sys2Proof.Machine

open Sys2Proof Sys2Proof.Machine

/-- Settles O5: each step of 1 to 9 sends an encoding, which decodes to its instruction. -/
theorem sequencerEntriesAreWellFormedRows : Obligations.SequencerEntriesAreWellFormedRows := by
  intro s h h1 h9
  obtain ⟨i, r, hr, he, hw, hv⟩ := exists_sendsRow h.fontFits h1 h9
  exact ⟨r, i, hr, he ▸ decode_encode i, hw, hv⟩

/-- Settles O7: level by level, and words agree that agree at every slot. -/
theorem physAndLogRelocateAndInvert : Obligations.PhysAndLogRelocateAndInvert :=
  fun pm l p h => ⟨atSlot_phys h l, log_getLsbD pm p, log_phys h l, phys_log h p⟩

/-- Settles O11: the levels of the counter stand side by side in the logical words, and the busy flag is bit 4 of
the first. -/
theorem readBackAssembly : Obligations.ReadBackAssembly :=
  fun s => ⟨addressCounter_eq s, rfl, (log_getLsbD s.pm s.rdHi slotD7).symm⟩
end

section
/-! PROOFS. A sequencer's row run alone, every call answered ok (O23, O24). -/

namespace Sys2Proof.Machine

/-- A step's own delay, where waits end and nothing is outstanding. -/
theorem ownDelay_ends {s : State} (own : Option Micros) (hd : DelaysEnd s) (hq : s.req = .none) :
    ownDelay own s = .going
      { s with
        dlIn := s.dlIn.drop own.toList.length
        trace := s.trace ++ own.toList.map Event.delay } := by
  cases own with
  | none => exact congrArg Flow.going (by apply State.ext <;> simp)
  | some n =>
    refine (delay_ends n hd).trans (congrArg Flow.going ?_)
    apply State.ext <;> simp [hq]

/-- A sequencer's row is running (log 1). -/
def rowRunning (s : State) : State := { s with top := .busy, rspValid := false }

/-- A row run alone whose transfer completes: its own delay, and `TOP` is what it was. -/
theorem seqAlone_of_xfer {s t : State} {r : SeqRow} (hm : s.mapValid = true)
    (h : xfer false false r.val r.len (rowRunning s) = .going t) (hd : DelaysEnd t) :
    seqAlone r s =
      { t with
        top := s.top
        dlIn := t.dlIn.drop r.own.toList.length
        trace := t.trace ++ r.own.toList.map Event.delay } := by
  have hsend : seqSend r (rowRunning s) = _ :=
    (congrArg (Flow.andThen · (ownDelay r.own)) h).trans (ownDelay_ends r.own hd (xfer_going h).2)
  change checked _ (rowRunning s) = _
  rw [checked_valid _ (by exact hm), hsend]
  rfl

section
variable {s : State} (hr : Ready s) (hd : DelaysEnd s)
include hr hd

/-- A row of one nibble. -/
theorem seqAlone_nibble (hk : CallsSucceed 2 s) (n x : Nibble) (own : Option Micros) :
    seqAlone ⟨n ++ x, false, own⟩ s = Expect.nibbleSent n x own s := by
  have hp := hr.inv.mapIsPerm hr.map
  have hx := xfer_nibble (s := rowRunning s) hp hr.inv.busCanonical (hk.later 0 rfl (by simp [rowRunning])) hd false (n ++ x)
  have hn : highNibble (n ++ x) = n := BitVec.extractLsb'_append_eq_left
  obtain ⟨hnpd, hreq⟩ := hr.inv.idleAtRest hr.idle
  rw [hn] at hx
  rw [seqAlone_of_xfer (r := ⟨n ++ x, false, own⟩) hr.map hx (hd.drop 2 rfl)]
  apply State.ext <;> simp [Expect.nibbleSent, takeAnswers_eq, rowRunning, hnpd, hreq]
  case word => rfl
  case bus => rfl
  case trace => rfl

/-- A row of a full byte. -/
theorem seqAlone_byte (hk : CallsSucceed 4 s) (v : Byte) (own : Option Micros) :
    seqAlone ⟨v, true, own⟩ s = Expect.seqByteSent v own s := by
  have hp := hr.inv.mapIsPerm hr.map
  have hx := xfer_byte (s := rowRunning s) hp hr.inv.busCanonical (hk.later 0 rfl (by simp [rowRunning])) hd false v
  obtain ⟨hnpd, hreq⟩ := hr.inv.idleAtRest hr.idle
  rw [seqAlone_of_xfer (r := ⟨v, true, own⟩) hr.map hx ((hd.drop 2 rfl).drop 2 rfl)]
  apply State.ext <;> simp [Expect.seqByteSent, takeAnswers_eq, rowRunning, hnpd, hreq]
  case word => rfl
  case bus => exact Memory.write_write _ _ _ hr.inv.busCanonical
  case trace => exact (List.append_assoc ..).symm
  case free => omega

end

/-- The function set byte, bit by bit (R205). -/
theorem funcsetByte_eq_or : ∀ n f : Bool,
    funcsetByte n f = (if n then 0x08#8 else 0#8) ||| (if f then 0x04#8 else 0#8) ||| 0x20#8 := by decide

end Sys2Proof.Machine

open Sys2Proof Sys2Proof.Machine

/-- Settles O23: both are rows of one nibble, K_PROBE with the delay of the step `SEQ` names. -/
theorem sequencerNibbleRowsSend : Obligations.SequencerNibbleRowsSend := by
  intro x s hr hk hd
  exact ⟨congrArg Host.Outcome.next (seqAlone_nibble hr hd hk 0x3#4 x _),
    congrArg Host.Outcome.next (seqAlone_nibble hr hd hk 0x2#4 x none)⟩

/-- Settles O24: each is a row of a full byte, K_CLEAR with its own delay. -/
theorem sequencerByteRowsSend : Obligations.SequencerByteRowsSend := by
  intro n f s hr hk hd
  have sends (v : Byte) (own : Option Micros) := congrArg (Host.Outcome.next (φ := Fault) (ρ := Refusal))
    (seqAlone_byte hr hd hk v own)
  rw [← funcsetByte_eq_or]
  exact ⟨sends _ none, sends _ none, sends _ (some s.prm.tClear), sends _ none, sends _ none⟩
end

section
/-! PROOFS. The operand latches A0, A1, A2 are read where an operation begins and nowhere else: every later piece
commutes with writing other bytes into them (O50). -/

namespace Sys2Proof.Machine

/-- The states a flow carries, changed by `g`. -/
def Flow.map (g : State → State) : Flow → Flow
  | .going s => .going (g s)
  | .aborted s => .aborted (g s)
  | .waiting s => .waiting (g s)

/-- A change `g` of the state before is the same change of the state after. -/
def Commutes (g : State → State) (k : State → Flow) : Prop := ∀ s, k (g s) = (k s).map g

theorem Flow.map_andThen {g : State → State} (f : Flow) {k : State → Flow} (h : Commutes g k) :
    (f.map g).andThen k = (f.andThen k).map g := by
  cases f with
  | going s => exact h s
  | aborted s => rfl
  | waiting s => rfl

/-- An operation's finish and abort, after its flow. -/
theorem Flow.map_finish {g : State → State} (f : Flow) {finish onAbort : State → State}
    (hf : ∀ s, finish (g s) = g (finish s)) (ha : ∀ s, onAbort (g s) = g (onAbort s)) :
    ((f.map g).andThen fun t => .going (finish t)).settle onAbort =
      g ((f.andThen fun t => .going (finish t)).settle onAbort) := by
  cases f with
  | going s => exact hf s
  | aborted s => exact ha s
  | waiting s => rfl

/-- The state with other argument bytes in the operand latches (R21). -/
def withArgs (x y z : Byte) (s : State) : State := { s with a0 := x, a1 := y, a2 := z }

section
variable (x y z : Byte)

@[simp] theorem withArgs_prm (s : State) : (withArgs x y z s).prm = s.prm := rfl
@[simp] theorem withArgs_a0 (s : State) : (withArgs x y z s).a0 = x := rfl
@[simp] theorem withArgs_seq (s : State) : (withArgs x y z s).seq = s.seq := rfl
@[simp] theorem withArgs_dlIn (s : State) : (withArgs x y z s).dlIn = s.dlIn := rfl
@[simp] theorem transportAnswer_withArgs (s : State) : transportAnswer (withArgs x y z s) = transportAnswer s := rfl

/-! ### Calls, waits and the driver -/

@[simp] theorem requestDone_withArgs (s : State) :
    requestDone (withArgs x y z s) = withArgs x y z (requestDone s) := by
  simp only [requestDone, takeAnswer_eq]; rfl

@[simp] theorem latchRead_withArgs (b : Byte) (s : State) :
    latchRead b (withArgs x y z s) = withArgs x y z (latchRead b s) := by
  apply State.ext <;> simp [withArgs]

theorem receiveWrite_withArgs : Commutes (withArgs x y z) receiveWrite := fun s => by
  simp only [receiveWrite, transportAnswer_withArgs, requestDone_withArgs]
  split <;> rfl

theorem receiveRead_withArgs : Commutes (withArgs x y z) receiveRead := fun s => by
  simp only [receiveRead, transportAnswer_withArgs, requestDone_withArgs, latchRead_withArgs]
  split <;> rfl

theorem delay_withArgs (n : Micros) : Commutes (withArgs x y z) (delay n) := fun s => by
  change receiveDelay (withArgs x y z (issueDelay n s)) = (receiveDelay (issueDelay n s)).map _
  simp only [receiveDelay, withArgs_dlIn]
  split <;> rfl

theorem ownDelay_withArgs (n : Option Micros) : Commutes (withArgs x y z) (ownDelay n) := by
  cases n with
  | some n => exact delay_withArgs x y z n
  | none => exact fun _ => rfl

theorem writeThenDelay_withArgs (n : Micros) (s : State) :
    (receiveWrite (issueWrite (withArgs x y z s))).andThen (delay n) =
      ((receiveWrite (issueWrite s)).andThen (delay n)).map (withArgs x y z) := by
  rw [← Flow.map_andThen _ (delay_withArgs x y z n), ← receiveWrite_withArgs]
  rfl

theorem npdAction_withArgs : Commutes (withArgs x y z) npdAction := fun s => by
  by_cases hd : s.npd = .done
  · rw [npdAction_done hd, npdAction_done (s := withArgs x y z s) hd]; rfl
  · rcases Npd.writes_or_samples hd with hw | hr
    · rw [npdAction_write hw, npdAction_write (s := withArgs x y z s) hw]
      exact writeThenDelay_withArgs x y z (npdWait s) (putWord (rowWord s) s)
    · rw [npdAction_read hr, npdAction_read (s := withArgs x y z s) hr]
      exact receiveRead_withArgs x y z (issueRead s)

theorem npdStep_withArgs : Commutes (withArgs x y z) npdStep := fun s => by
  rw [npdStep, npdStep, npdAction_withArgs, Flow.map_andThen]
  exact fun _ => rfl

theorem npdRun_withArgs (n : Nat) : Commutes (withArgs x y z) (npdRun n) := by
  induction n with
  | zero => exact fun _ => rfl
  | succ n ih =>
    intro s
    by_cases hd : s.npd = .done
    · rw [npdRun_done _ hd, npdRun_done (s := withArgs x y z s) _ hd]; rfl
    · rw [npdRun, npdRun, if_neg hd, if_neg (by exact hd), npdStep_withArgs, Flow.map_andThen _ ih]

theorem xfer_withArgs (rs rw : Bool) (v : Byte) (len : Bool) :
    Commutes (withArgs x y z) (xfer rs rw v len) := fun s => npdRun_withArgs x y z 6 (xferStart rs rw v len s)

theorem readXfer_withArgs (len : Bool) : Commutes (withArgs x y z) (readXfer len) :=
  xfer_withArgs x y z false true 0xFF#8 len

/-! ### The sequencer -/

theorem seqSend_withArgs (r : SeqRow) : Commutes (withArgs x y z) (seqSend r) := fun s => by
  rw [seqSend, seqSend, xfer_withArgs, Flow.map_andThen _ (ownDelay_withArgs x y z r.own)]

theorem seqAction_withArgs : Commutes (withArgs x y z) seqAction := fun s => by
  unfold seqAction
  rw [show seqRow (withArgs x y z s) = seqRow s from rfl, withArgs_seq, withArgs_prm]
  cases seqRow s with
  | some r => exact seqSend_withArgs x y z r s
  | none =>
    dsimp only
    split_ifs
    · exact delay_withArgs x y z s.prm.tPowerOn s
    · rfl

theorem seqAdvance_withArgs (s : State) : seqAdvance (withArgs x y z s) = withArgs x y z (seqAdvance s) := by
  apply State.ext <;> simp [seqAdvance, withArgs]

theorem seqRun_withArgs (n : Nat) : Commutes (withArgs x y z) (seqRun n) := by
  induction n with
  | zero => exact fun _ => rfl
  | succ n ih =>
    intro s
    rw [seqRun, seqRun]
    by_cases h9 : s.seq ≤ 9#4
    · rw [if_pos h9, if_pos (by exact h9), seqAction_withArgs, Flow.map_andThen]
      exact fun t => (congrArg (seqRun n) (seqAdvance_withArgs x y z t)).trans (ih _)
    · rw [if_neg h9, if_neg (by exact h9)]; rfl

end

/-! ### The operations -/

section
variable {x y z : Byte} {s : State}

theorem byteBody_withArgs (rs : Bool) (h : x = s.a0) :
    byteBody rs (withArgs x y z s) = withArgs x y z (byteBody rs s) := by
  subst h
  rw [byteBody, withArgs_a0, xfer_withArgs]
  exact Flow.map_finish _ (fun _ => rfl) fun _ => rfl

theorem rdbfBody_withArgs : rdbfBody (withArgs x y z s) = withArgs x y z (rdbfBody s) := by
  rw [rdbfBody, withArgs_prm, readXfer_withArgs]
  exact Flow.map_finish _ (fun _ => rfl) fun _ => rfl

theorem rdacBody_withArgs : rdacBody (withArgs x y z s) = withArgs x y z (rdacBody s) := by
  rw [rdacBody, readXfer_withArgs]
  exact Flow.map_finish _ (fun _ => rfl) fun _ => rfl

theorem backlightBody_withArgs (h : x.getLsbD 0 = s.a0.getLsbD 0) :
    backlightBody (withArgs x y z s) = withArgs x y z (backlightBody s) := by
  have hw : backlightWord (withArgs x y z s) = withArgs x y z (backlightWord s) := by
    unfold backlightWord
    simp only [withArgs, h]
    rfl
  unfold backlightBody
  rw [hw, withArgs_prm, writeThenDelay_withArgs]
  exact Flow.map_finish _ (fun _ => rfl) fun _ => rfl

theorem initBody_withArgs (h0 : x = s.a0) (h1 : y = s.a1) (h2 : z.getLsbD 0 = s.a2.getLsbD 0) :
    initBody (withArgs x y z s) = withArgs x y z (initBody s) := by
  subst h0 h1
  have hs : initStart (withArgs s.a0 s.a1 z s) = withArgs s.a0 s.a1 z (initStart s) := by
    unfold initStart requestedFont
    simp only [withArgs, h2]
  rw [initBody, hs, seqRun_withArgs]
  exact Flow.map_finish _ (fun _ => rfl) fun _ => rfl

theorem checked_withArgs {body : State → State} (h : body (withArgs x y z s) = withArgs x y z (body s)) :
    checked body (withArgs x y z s) = withArgs x y z (checked body s) := by
  unfold checked
  rw [h]
  by_cases hm : s.mapValid = true
  · rw [if_pos hm, if_pos (by exact hm)]
  · rw [if_neg hm, if_neg (by exact hm)]; rfl

end

end Sys2Proof.Machine

open Sys2Proof Sys2Proof.Machine

/-- Settles O50: accepted with other ignored bits, a command differs in the operand latches alone, and its operation
commutes with that difference. -/
theorem ignoredArgumentBitsChangeNothing : Obligations.IgnoredArgumentBitsChangeNothing := by
  intro a b c d e f i j s t hij ht
  have accepted {op : BitVec 4} {body : State → State} {x y z : Byte}
      (h : body (withArgs x y z (accept op a b c s)) = withArgs x y z (body (accept op a b c s))) :
      ∃ x' y' z' : Byte, Host.Outcome.next (φ := Fault) (ρ := Refusal) (checked body (accept op x y z s)) =
        .next (withArgs x' y' z' (checked body (accept op a b c s))) :=
    ⟨x, y, z, congrArg Host.Outcome.next (checked_withArgs h)⟩
  rcases hij with ⟨rfl, rfl⟩ | ⟨rfl, rfl⟩ | ⟨rfl, rfl, h⟩ | ⟨rfl, rfl⟩ | ⟨rfl, rfl⟩ | ⟨rfl, rfl, h⟩ <;> cases ht
  · exact accepted (byteBody_withArgs false rfl)
  · exact accepted (byteBody_withArgs true rfl)
  · exact accepted (backlightBody_withArgs h.symm)
  · exact accepted rdbfBody_withArgs
  · exact accepted rdacBody_withArgs
  · exact accepted (initBody_withArgs rfl rfl h.symm)
end

section
/-! PROOFS. When the Pin Mapper accepts a declaration, and where its map then has each port (O6). -/

namespace Sys2Proof.Machine

/-- Every role code is one of the eight, and none occurs twice (R132). -/
def DeclaresEachRoleOnce (decl : BitVec 32) : Prop :=
  (∀ k : Port, declCode decl k ≤ 7#4) ∧ ∀ j k : Port, declCode decl j = declCode decl k → j = k

theorem code_le_seven_iff {c : BitVec 4} : c ≤ 7#4 ↔ c.toNat < 8 := Nat.lt_succ_iff.symm

/-- A round whose code names a slot not seen before rejects nothing, and sees that code besides. -/
theorem mapRound_of_unseen {decl : BitVec 32} {b : MapBuild} {k : Port} (hc : declCode decl k ≤ 7#4)
    (hseen : b.seen.getLsbD (declCode decl k).toNat = false) :
    (mapRound decl b k).bad = b.bad ∧
      (mapRound decl b k).seen = b.seen ||| 1#8 <<< (declCode decl k).toNat := by
  simp only [mapRound, dif_pos (code_le_seven_iff.1 hc), hseen, Bool.or_false, and_self]

/-- The loop rejects no list of ports whose codes are recognised, pairwise different and not seen before. -/
theorem not_bad_foldl {decl : BitVec 32} (hc : ∀ k : Port, declCode decl k ≤ 7#4) (l : List Port) {b : MapBuild}
    (hb : b.bad = false) (hl : l.Pairwise fun j k => declCode decl j ≠ declCode decl k)
    (hseen : ∀ k ∈ l, b.seen.getLsbD (declCode decl k).toNat = false) :
    (l.foldl (mapRound decl) b).bad = false := by
  induction l generalizing b with
  | nil => exact hb
  | cons k r ih =>
    obtain ⟨hk, hr⟩ := List.pairwise_cons.1 hl
    obtain ⟨hbad, hseen'⟩ := mapRound_of_unseen (hc k) (hseen k List.mem_cons_self)
    refine ih (hbad.trans hb) hr fun j hj => ?_
    have hne : (declCode decl j).toNat ≠ (declCode decl k).toNat := fun e => hk j hj (BitVec.eq_of_toNat_eq e.symm)
    have hone : (1#8 <<< (declCode decl k).toNat).getLsbD (declCode decl j).toNat = false := by
      rw [← BitVec.twoPow_eq, BitVec.getLsbD_twoPow]; simp [hne.symm]
    rw [hseen', BitVec.getLsbD_or, hseen j (List.mem_cons_of_mem k hj), hone]
    rfl

/-- R132: the loop rejects exactly the declarations that are not one code for each role. A port is placed in the
slot of its code, so two ports of one code would be one port. -/
theorem buildMap_not_bad_iff (decl : BitVec 32) : (buildMap decl).bad = false ↔ DeclaresEachRoleOnce decl := by
  constructor
  · intro h
    refine ⟨fun k => code_le_seven_iff.2 (placed_buildMap h k).1, fun j k e => ?_⟩
    obtain ⟨_, -, hj⟩ := placed_buildMap h j
    obtain ⟨_, -, hk⟩ := placed_buildMap h k
    simp only [e] at hj
    exact hj.symm.trans hk
  · rintro ⟨hc, hinj⟩
    have hports : [0, 1, 2, 3, 4, 5, 6, 7].Pairwise fun j k : Port => j ≠ k := by decide
    exact not_bad_foldl hc _ rfl (hports.imp fun hne e => hne (hinj _ _ e)) (by simp)

theorem construct_mapValid_iff (decl : BitVec 32) (pol : Bool) (addr : DevAddr) (s : State) :
    (construct decl pol addr s).mapValid = true ↔ DeclaresEachRoleOnce decl := by
  change (!(buildMap decl).bad) = true ↔ _
  rw [Bool.not_eq_true', buildMap_not_bad_iff]

/-- R136 (b): the slot that a port's code names holds that port. -/
theorem buildMap_pm_declCode {decl : BitVec 32} (h : (buildMap decl).bad = false) {k : Port} {i : Fin 8}
    (hi : (declCode decl k).toNat = i.val) : (buildMap decl).pm[i] = k := by
  obtain ⟨_, -, hk⟩ := placed_buildMap h k
  simp only [hi] at hk
  exact hk

/-- R136 (a): every port stands in exactly one slot. -/
theorem buildMap_existsUnique_slot {decl : BitVec 32} (h : (buildMap decl).bad = false) (p : Port) :
    ∃! i : Fin 8, (buildMap decl).pm[i] = p := by
  have hp := isPerm_buildMap h
  obtain ⟨i, hi⟩ := Port.exists_slot hp p
  exact ⟨i, hi, fun j hj => hp j i (hj.trans hi.symm)⟩

end Sys2Proof.Machine

open Sys2Proof Sys2Proof.Machine

/-- Settles O6: the loop's rounds reject nothing exactly when the codes are recognised and differ, and then each
has placed its port. -/
theorem mapValidExactlyForPermutations : Obligations.MapValidExactlyForPermutations := by
  intro decl pol addr s
  have hvalid := construct_mapValid_iff decl pol addr s
  refine ⟨hvalid, fun h => ?_⟩
  have hb := (buildMap_not_bad_iff decl).2 (hvalid.1 h)
  exact ⟨buildMap_existsUnique_slot hb, fun _ _ => buildMap_pm_declCode hb⟩
end

section
/-! PROOFS. The configuration: no operation, no small step and no input but a reset writes it (O46), so an invalid
map stays invalid and every command is refused (O32). -/

namespace Sys2Proof.Machine

/-- What construction fixes for the machine's life: the map and its validity, the polarity, the address (R135),
and the parameters (log 6). -/
def configuration (s : State) : PinMap × Bool × Polarity × DevAddr × Params :=
  (s.pm, s.mapValid, s.blPol, s.devAddr, s.prm)

theorem Kept.configuration {s t : State} (k : Kept s t) : configuration t = configuration s := by
  simp only [Machine.configuration, k.pm, k.mapValid, k.blPol, k.devAddr, k.prm]

/-! ### The operations -/

/-- An operation that ends by its finish, its abort, or the wait for ever. -/
theorem configuration_settle {s : State} {f : Flow} {finish onAbort : State → State} (k : Kept s f.state)
    (hfin : ∀ t, configuration (finish t) = configuration t)
    (habort : ∀ t, configuration (onAbort t) = configuration t) :
    configuration ((f.andThen fun t => .going (finish t)).settle onAbort) = configuration s := by
  cases f with
  | going t => exact (hfin t).trans k.configuration
  | aborted t => exact (habort t).trans k.configuration
  | waiting t => exact k.configuration

theorem configuration_raise (x : Status) (s : State) : configuration (raise x s) = configuration s := rfl

theorem configuration_raiseInitFailed (s : State) : configuration (raiseInitFailed s) = configuration s := rfl

theorem configuration_checked {s : State} {body : State → State} (h : configuration (body s) = configuration s) :
    configuration (checked body s) = configuration s := by
  unfold checked
  split_ifs
  · exact h
  · exact configuration_raise _ s

theorem configuration_byteBody (rs : Bool) (s : State) : configuration (byteBody rs s) = configuration s :=
  configuration_settle (Kept.xfer rs false s.a0 true s) (fun _ => rfl) (configuration_raise _)

theorem configuration_rdbfBody (s : State) : configuration (rdbfBody s) = configuration s :=
  configuration_settle (Kept.xfer false true 0xFF#8 s.prm.bfFullCycle s) (fun _ => rfl) (configuration_raise _)

theorem configuration_rdacBody (s : State) : configuration (rdacBody s) = configuration s :=
  configuration_settle (Kept.xfer false true 0xFF#8 true s) (fun _ => rfl) (configuration_raise _)

theorem configuration_backlightBody (s : State) : configuration (backlightBody s) = configuration s :=
  configuration_settle (s := backlightWord s) (Kept.acrossCalls.writeThenDelay _ _) (fun _ => rfl)
    (configuration_raise _)

theorem configuration_initBody (s : State) : configuration (initBody s) = configuration s :=
  configuration_settle (s := initStart s) (Kept.seqRun 10 _) (fun _ => rfl) configuration_raiseInitFailed

theorem configuration_seqAlone (r : SeqRow) (s : State) : configuration (seqAlone r s) = configuration s :=
  configuration_checked (s := rowRunning s)
    (configuration_settle (Kept.seqSend r (rowRunning s)) (fun _ => rfl) configuration_raiseInitFailed)

theorem configuration_layerCmd (byte : Byte) (s : State) : configuration (layerCmd byte s) = configuration s :=
  configuration_checked (s := accept opCmd byte 0#8 0#8 _) (configuration_byteBody false _)

theorem configuration_layerData (byte : Byte) (s : State) : configuration (layerData byte s) = configuration s :=
  configuration_checked (s := accept opData byte 0#8 0#8 _) (configuration_byteBody true _)

theorem configuration_layerWait (s : State) : configuration (layerWait s) = configuration s := by
  unfold layerWait
  split <;> rfl

theorem configuration_layerPattern (l : List Byte) (s : State) :
    configuration (layerPattern l s) = configuration s := by
  induction l generalizing s with
  | nil => rfl
  | cons b r ih =>
    rw [layerPattern]
    split
    · exact (ih _).trans (configuration_layerData b s)
    · rfl

theorem configuration_loadGlyph (slot : Byte) (pattern : List Byte) (s : State) :
    configuration (loadGlyph slot pattern s) = configuration s :=
  (configuration_layerPattern _ _).trans (configuration_layerCmd _ (takeGlyph pattern s))

theorem configuration_exec {i : Instr} {s t : State} (h : exec i s = .next t) :
    configuration t = configuration s := by
  cases i <;> cases h
  case init c r f => exact configuration_checked (s := accept opInit c r f s) (configuration_initBody _)
  case cmd b a1 a2 => exact configuration_checked (s := accept opCmd b a1 a2 s) (configuration_byteBody false _)
  case data b a1 a2 => exact configuration_checked (s := accept opData b a1 a2 s) (configuration_byteBody true _)
  case backlight on a1 a2 =>
    exact configuration_checked (s := accept opBacklight on a1 a2 s) (configuration_backlightBody _)
  case rdbf a0 a1 a2 => exact configuration_checked (s := accept opRdbf a0 a1 a2 s) (configuration_rdbfBody _)
  case rdac a0 a1 a2 => exact configuration_checked (s := accept opRdac a0 a1 a2 s) (configuration_rdacBody _)
  case kProbe | kSwitch4 | kFuncset | kDisplayOff | kClear | kEntryLtr | kDisplayOn =>
    exact configuration_seqAlone _ s
  case clear | home => exact (configuration_layerWait _).trans (configuration_layerCmd _ s)
  case displayctl d c b => exact configuration_layerCmd _ (displayFlags d c b s)
  case entrymode ltr auto => exact configuration_layerCmd _ (entryFlags ltr auto s)
  case setddram | shift | setcgram => exact configuration_layerCmd _ s

/-! ### The host's inputs -/

/-- A call of the layer that is answered runs one of the layer's rows, or is LOADGLYPH (R272 to R280). -/
theorem runCall_next {c : LayerCall} {s t : State} (h : runCall c s = .next t) :
    (∃ i : Instr, exec i s = .next t) ∨ ∃ slot pattern, t = loadGlyph slot pattern s := by
  cases c
  case clear => exact .inl ⟨.clear, h⟩
  case home => exact .inl ⟨.home, h⟩
  case setCursor col row =>
    unfold runCall at h
    dsimp only at h
    split at h
    next a _ => exact .inl ⟨.setddram a, h⟩
    next => cases h
  case display on => exact .inl ⟨.displayctl on s.curOn s.blinkOn, h⟩
  case cursor on => exact .inl ⟨.displayctl s.dispOn on s.blinkOn, h⟩
  case blink on => exact .inl ⟨.displayctl s.dispOn s.curOn on, h⟩
  case entryDir ltr => exact .inl ⟨.entrymode ltr s.autoscroll, h⟩
  case autoscroll on => exact .inl ⟨.entrymode s.entryLtr on, h⟩
  case scroll right => exact .inl ⟨.shift right, h⟩
  case loadGlyph slot pattern => cases h; exact .inr ⟨slot, pattern, rfl⟩
  case barGraph => cases h

theorem configuration_runCall {c : LayerCall} {s t : State} (h : runCall c s = .next t) :
    configuration t = configuration s := by
  rcases runCall_next h with ⟨i, hi⟩ | ⟨slot, pattern, rfl⟩
  · exact configuration_exec hi
  · exact configuration_loadGlyph slot pattern s

theorem configuration_fetchStep {f : Fetched} {s t : State} (h : fetchStep f s = .next t) :
    configuration t = configuration s := by
  unfold fetchStep at h
  split at h
  · exact configuration_exec h
  · cases f <;> cases h
    exact configuration_checked (s := accept _ _ _ _ s) (configuration_raise _ _)

theorem configuration_idleInput {e : HostEvent} {s t : State} (hn : ∀ decl pol addr, e ≠ .reset decl pol addr)
    (h : idleInput e s = .next t) : configuration t = configuration s := by
  cases e
  case fetch f => exact configuration_fetchStep h
  case call c => exact configuration_runCall h
  case reset decl pol addr => exact absurd rfl (hn decl pol addr)
  case wait | powerLoss => cases h; rfl

/-! ### The small steps of a running operation -/

theorem configuration_opFinish (s : State) : configuration (opFinish s) = configuration s := by
  unfold opFinish
  split_ifs <;> rfl

theorem configuration_xferDone (s : State) : configuration (xferDone s) = configuration s := by
  unfold xferDone
  split_ifs
  · split
    · rfl
    · exact (Kept.seqAdvance s).configuration
  · exact configuration_opFinish s

theorem configuration_npdGoOn (s : State) : configuration (npdGoOn s) = configuration s := by
  unfold npdGoOn
  dsimp only
  split_ifs
  · exact configuration_xferDone (npdAdvance s)
  · rfl

theorem configuration_delayDone (s : State) : configuration (delayDone s) = configuration s := by
  unfold delayDone
  split_ifs
  · exact (Kept.seqAdvance s).configuration
  · exact configuration_opFinish s
  · exact configuration_npdGoOn s

theorem configuration_seqIssue (s : State) : configuration (seqIssue s) = configuration s := by
  unfold seqIssue
  split
  · rfl
  · split_ifs <;> rfl

theorem configuration_opStart (s : State) : configuration (opStart s) = configuration s := by
  unfold opStart
  split_ifs <;> rfl

theorem configuration_goOn (s : State) : configuration (goOn s) = configuration s := by
  unfold goOn
  split_ifs
  · exact configuration_seqIssue s
  · exact configuration_opStart s
  · exact (Kept.npdIssue s).configuration

theorem configuration_opAbort (s : State) : configuration (opAbort s) = configuration s := by
  unfold opAbort
  split_ifs
  · exact configuration_raiseInitFailed s
  · exact configuration_raise _ s

theorem configuration_busyStep {s t : State} (h : busyStep s = .next t) : configuration t = configuration s := by
  have hwrite := (Kept.receiveWrite s).configuration
  have hread := (Kept.receiveRead s).configuration
  unfold busyStep at h
  split at h
  next u hu =>
    cases h
    rcases smallStep_going hu with ⟨-, rfl⟩ | ⟨v, hv, rfl⟩ | ⟨v, hv, rfl⟩ | rfl
    · exact configuration_goOn s
    · rw [hv] at hwrite; exact hwrite
    · rw [hv] at hread; exact (configuration_npdGoOn v).trans hread
    · exact configuration_delayDone (endDelay s)
  next u hu =>
    cases h
    rcases smallStep_aborted hu with hv | hv
    · rw [hv] at hwrite; exact (configuration_opAbort u).trans hwrite
    · rw [hv] at hread; exact (configuration_opAbort u).trans hread
  next => split at h <;> cases h

/-! ### One step -/

/-- R135: the four kinds of step, without the reset. -/
theorem configuration_step {s t : State} (hn : Expect.NoResetNext s) (h : step s = .next t) :
    configuration t = configuration s := by
  rcases step_cases s with ⟨decl, pol, addr, rest, hin, -⟩ | ⟨-, he⟩ | ⟨-, he⟩ | ⟨e, rest, -, hin, he⟩
  · exact absurd hin (hn decl pol addr rest)
  · exact configuration_busyStep (he.symm.trans h)
  · cases he.symm.trans h; rfl
  · have hne : ∀ decl pol addr, e ≠ .reset decl pol addr := fun decl pol addr heq =>
      hn decl pol addr rest (heq ▸ hin)
    exact configuration_idleInput (s := { s with hostIn := rest }) hne (he.symm.trans h)

/-! ### An invalid map -/

/-- R134, R305: an invalid map refuses the command before its opcode is looked at. The framer was idle and at rest,
and so it is again. -/
theorem fetchStep_port_invalid {s : State} (ht : s.top = .idle) (hr : AtRest s) (hm : s.mapValid = false)
    (w : CmdWord) :
    fetchStep (.port w) s = .next
      { s with
        op := cmdOp w
        a0 := cmdA0 w
        a1 := cmdA1 w
        a2 := cmdA2 w
        status := .configError
        rdata := 0#8
        rspValid := true
        trace := s.trace ++ [.rsp .configError 0#8] } := by
  rw [fetchStep_port, checked_invalid (s := accept _ _ _ _ s) opBody hm]
  apply congrArg Host.Outcome.next
  apply State.ext
  case top => exact ht.symm
  case npd => exact hr.1.symm
  case req => exact hr.2.symm
  all_goals rfl

end Sys2Proof.Machine

open Sys2Proof Sys2Proof.Machine

/-- Settles O46: a running operation's small steps and an idle framer's inputs leave the configuration. -/
theorem configurationIsImmutable : Obligations.ConfigurationIsImmutable := by
  intro s t hn hs
  simpa only [configuration, Prod.mk.injEq] using configuration_step hn hs

/-- Settles O32: the refused command (R134), the map that stays as it was (O46), and the reset that makes it valid
with a valid declaration alone (O6). -/
theorem invalidMapRefusesEveryCommand : Obligations.InvalidMapRefusesEveryCommand := by
  refine ⟨fun w s hi ht hm => fetchStep_port_invalid ht (hi.idleAtRest ht) hm w, fun s t hm hn hs => ?_, ?_⟩
  · obtain ⟨-, hvalid, -⟩ := configurationIsImmutable s t hn hs
    exact hvalid.trans hm
  · intro decl pol addr rest s t hin hs hm
    rw [step_reset hin] at hs
    cases hs
    exact (construct_mapValid_iff decl pol addr _).1 hm
end

section
/-! PROOFS. The two words of a nibble phase, read back through the map: the fields they carry, and the one bit they
differ in (O8). -/

namespace Sys2Proof.Machine

/-- The fields of a logical word whose backlight bit is filled in (R90, R94). -/
theorem fields_of_append : ∀ (rs rw e bl : Bool) (n : Nibble),
    let w : Byte := BitVec.ofBool rs ++ BitVec.ofBool rw ++ BitVec.ofBool e ++ n ++ BitVec.ofBool bl
    w.extractLsb' 1 4 = n ∧ w.getLsbD 7 = rs ∧ w.getLsbD 6 = rw ∧ w.getLsbD 5 = e ∧ w.getLsbD 0 = bl := by
  decide

/-- `LWord` leaves bit 0, the backlight's, at 0 (R94); its level fills it. -/
theorem append_zero_or_backlight_getLsbD (x : BitVec 7) (bl : Bool) (i : Fin 8) :
    ((x ++ 0#1).getLsbD i.val || (decide (i = slotBL) && bl)) = (x ++ BitVec.ofBool bl).getLsbD i.val := by
  rw [BitVec.getLsbD_append, BitVec.getLsbD_append]
  rcases i with ⟨_ | k, hk⟩
  · simp [slotBL]
  · simp [slotBL]

/-- R155 (a) to (d): read back through the map, an encoded word is its fields side by side. -/
theorem log_encWord (s : State) (h : PinMap.IsPerm s.pm) (rs rw e : Bool) (n : Nibble) :
    log s.pm (encWord s rs rw e n) =
      BitVec.ofBool rs ++ BitVec.ofBool rw ++ BitVec.ofBool e ++ n ++ BitVec.ofBool (backlightLevel s) := by
  apply BitVec.eq_of_getLsbD_eq
  intro k hk
  calc (log s.pm (encWord s rs rw e n)).getLsbD k
      = atSlot s.pm (encWord s rs rw e n) ⟨k, hk⟩ := log_getLsbD _ _ ⟨k, hk⟩
    _ = _ := atSlot_encWord s h rs rw e n ⟨k, hk⟩
    _ = _ := append_zero_or_backlight_getLsbD _ (backlightLevel s) ⟨k, hk⟩

/-- R261: the level on the backlight port is the configured state through the configured polarity (R32). -/
theorem backlightLevel_eq_xor (s : State) : backlightLevel s = (s.blOn ^^ decide (s.blPol = .activeLow)) := by
  unfold backlightLevel
  cases s.blPol <;> simp

/-- R155 (e): where a word has its enable bit set, clearing it changes that bit alone. -/
theorem xor_clear_enable (s : State) {w : Byte} (hw : atSlot s.pm w slotE = true) :
    w ^^^ (w &&& ~~~(eMask s)) = eMask s := by
  apply BitVec.eq_of_getLsbD_eq
  intro k hk
  have hbit : (eMask s).getLsbD k = decide (s.pm[slotE] = ⟨k, hk⟩) :=
    (portBit_getLsbD s.pm[slotE] true ⟨k, hk⟩).trans (Bool.and_true _)
  rw [BitVec.getLsbD_xor, BitVec.getLsbD_and, BitVec.getLsbD_not, hbit]
  by_cases hE : s.pm[slotE] = ⟨k, hk⟩
  · rw [atSlot, hE] at hw
    rw [hw, decide_eq_true hE, Bool.not_true, Bool.and_false, Bool.and_false, Bool.xor_false]
  · rw [decide_eq_false hE, decide_eq_true hk, Bool.not_false, Bool.and_true, Bool.and_true, Bool.xor_self]

end Sys2Proof.Machine

open Sys2Proof Sys2Proof.Machine

/-- Settles O8: the word with enable low is the encoding with enable low (R153), and an encoding read back is its
fields side by side. -/
theorem encodedWordsCarryTheirFields : Obligations.EncodedWordsCarryTheirFields := by
  rintro s rs rw n h hi lo rfl hlo
  have hclear : lo = encWord s rs rw false n := hlo.trans (encWord_clear_enable s h rs rw n)
  have hdiff : encWord s rs rw true n ^^^ lo = 1#8 <<< s.pm[slotE].val :=
    hlo ▸ xor_clear_enable s (atSlot_encWord_enable s h rs rw true n)
  obtain ⟨hn, hrs, hrw, he, hbl⟩ := fields_of_append rs rw true (backlightLevel s) n
  obtain ⟨ln, lrs, lrw, le, lbl⟩ := fields_of_append rs rw false (backlightLevel s) n
  rw [← log_encWord s h] at hn hrs hrw he hbl ln lrs lrw le lbl
  rw [← hclear] at ln lrs lrw le lbl
  rw [backlightLevel_eq_xor] at hbl lbl
  exact ⟨hn, ln, hrs, lrs, hrw, lrw, he, le, hbl, lbl, hdiff⟩
end

section
/-! PROOFS. The rows of the driver's table, one call each (O12 to O15): a writing row whose call and wait end, a
SAMPLE row, and the state a failed call leaves a row in. -/

namespace Sys2Proof.Machine

/-- A writing row whose call succeeds and whose wait ends: its word goes out and lands, its wait follows, and the
driver is in the next row (R172, R175). -/
theorem npdStep_writing_row {s : State} {w : Byte} {next : Npd} {n : Micros} (hn : s.npd.Writes)
    (ha : (transportAnswer s).isOk = true) (hd : DelaysEnd s) (hw : rowWord s = w)
    (hnext : npdNext s.prm.rdSample s.rw s.len s.npd = next) (hwait : npdWait s = n) :
    npdStep s = .going
      { takeAnswer s with
        word := w
        npd := next
        req := .none
        bus := Memory.write s.bus s.devAddr.toNat w
        ctl := if enableFalls s.pm (Memory.read s.bus s.devAddr.toNat) w then s.ctl.latch else s.ctl
        dlIn := s.dlIn.tail
        trace := s.trace ++ [Event.write w, Event.delay n] } := by
  subst hw hnext hwait
  refine (npdStep_write hn ha hd).trans (congrArg Flow.going ?_)
  apply State.ext <;> simp
  case ctl => rfl

theorem eMask_eq_shift (s : State) : eMask s = 1#8 <<< s.pm[slotE].val := rfl

/-- A row whose call fails: the call's event is the last, nothing is waited or latched, and a word that went out may
have landed (R60, R178). -/
theorem npdStep_failed {s : State} (ha : transportAnswer s = .fail) (hn : s.npd ≠ .done) :
    ∃ t : State, npdStep s = .aborted t ∧ (∃ e : Event, e.isCall = true ∧ t.trace = s.trace ++ [e]) ∧
      t.npd = s.npd ∧ t.dlIn = s.dlIn ∧ t.rdHi = s.rdHi ∧ t.rdLo = s.rdLo ∧ t.word = rowWord s ∧
      (t.bus = s.bus ∨ t.bus = Memory.write s.bus s.devAddr.toNat t.word) := by
  rcases Npd.writes_or_samples hn with hw | hr
  · refine ⟨_, npdStep_write_fails hw ha, ⟨.write (rowWord s), rfl, by simp⟩, ?_⟩
    simp only [maybeLandWord_bus]
    split_ifs <;> simp
  · have hword : rowWord s = s.word := by rcases hr with h | h <;> simp only [rowWord, h]
    exact ⟨_, npdStep_read_fails hr ha, ⟨.read, rfl, by simp⟩, by simp [hword]⟩

end Sys2Proof.Machine

open Sys2Proof Sys2Proof.Machine

/-- Settles O12: in read mode the SAMPLE row of the phase comes next, otherwise its PULSE row. -/
theorem assembleRowsOfTheDriver : Obligations.AssembleRowsOfTheDriver := by
  rintro s hs ha hd w next (⟨hn, rfl, rfl⟩ | ⟨hn, rfl, rfl⟩) <;>
    exact npdStep_writing_row (by simp [Npd.Writes, hn]) ha hd (by rw [rowWord, hn]; rfl) (by rw [hs, hn]; rfl)
      (by rw [npdWait, hn])

/-- Settles O13: the word is `WORD` with enable cleared alone (R173). -/
theorem pulseRowsOfTheDriver : Obligations.PulseRowsOfTheDriver := by
  rintro s hs ha hd w next rfl (⟨hn, rfl⟩ | ⟨hn, rfl⟩) <;>
    exact npdStep_writing_row (by simp [Npd.Writes, hn]) ha hd (by rw [rowWord, hn, eMask_eq_shift])
      (by rw [hs, hn]; rfl) (by rw [npdWait, hn])

/-- Settles O14: the row reads, latches by its phase, and goes to the phase's PULSE row. -/
theorem sampleRowsOfTheDriver : Obligations.SampleRowsOfTheDriver := by
  intro s b hs ha
  constructor <;> intro hn
  all_goals
    refine (npdStep_read (by simp [hn]) ha).trans (congrArg Flow.going ?_)
    apply State.ext <;> simp [hn, hs, npdNext]

/-- Settles O15: the word is the row's own, and each row makes the word R172 gives it. -/
theorem failedCallAbortsTheDriver : Obligations.FailedCallAbortsTheDriver := by
  intro s ha hn
  obtain ⟨t, hstep, hcall, hnpd, hdl, hhi, hlo, hword, hbus⟩ := npdStep_failed ha hn
  refine ⟨t, hstep, hcall, hnpd, hdl, hhi, hlo, ?_, ?_, ?_, hbus⟩ <;> rw [hword]
  · intro h; rw [rowWord, h]
  · intro h; rw [rowWord, h]
  · rintro (h | h) <;> rw [rowWord, h, eMask_eq_shift]
end

section
/-! PROOFS. CMD and DATA when every call succeeds (O16, O17). -/

namespace Sys2Proof.Machine

/-- What both do after the map check, from a ready state: the four words of the byte, then the response. -/
theorem accepted_byteBody {s : State} (hr : Ready s) (hk : CallsSucceed 4 s) (hd : DelaysEnd s) (op : BitVec 4)
    (rs : Bool) (byte a1 a2 : Byte) :
    checked (byteBody rs) (accept op byte a1 a2 s) = Expect.sent op rs byte a1 a2 s := by
  have hp := hr.inv.mapIsPerm hr.map
  have hm := hr.inv.busCanonical
  obtain ⟨hnpd, hreq⟩ := hr.inv.idleAtRest hr.idle
  rw [checked_valid _ (by exact hr.map),
    byteBody_ok (s := accept op byte a1 a2 s) hp hm (hk.later 0 rfl (by simp)) hd]
  apply State.ext <;> simp [Expect.sent, takeAnswers_eq, hnpd, hreq, hr.idle]
  case bus => exact Memory.write_write _ _ _ hm
  case trace => simp only [byteEvents, List.append_assoc]; rfl
  case free => omega

end Sys2Proof.Machine

open Sys2Proof Sys2Proof.Machine

/-- Settles O16: a byte with register-select 0. -/
theorem cmdSendsItsByte : Obligations.CmdSendsItsByte :=
  fun byte a1 a2 _ hr hk hd => congrArg Host.Outcome.next (accepted_byteBody hr hk hd _ false byte a1 a2)

/-- Settles O17: a byte with register-select 1. -/
theorem dataSendsItsByte : Obligations.DataSendsItsByte :=
  fun byte a1 a2 _ hr hk hd => congrArg Host.Outcome.next (accepted_byteBody hr hk hd _ true byte a1 a2)
end

section
/-! PROOFS. The frame of CMD and DATA, whatever the collaborators answer (O36): a write transfer runs no SAMPLE row,
so it leaves the read latches too. -/

namespace Sys2Proof.Machine

/-- The read latches are the same in both states. -/
def SameReads (s t : State) : Prop := t.rdHi = s.rdHi ∧ t.rdLo = s.rdLo

theorem SameReads.trans (a b c : State) (h : SameReads a b) (g : SameReads b c) : SameReads a c :=
  ⟨g.1.trans h.1, g.2.trans h.2⟩

theorem SameReads.receiveWrite (s : State) : SameReads s (receiveWrite s).state := by
  unfold Machine.receiveWrite
  split <;> simp [SameReads]

theorem SameReads.delay (n : Micros) (s : State) : SameReads s (delay n s).state := by
  unfold Machine.delay receiveDelay
  split <;> exact ⟨rfl, rfl⟩

theorem SameReads.npdStep {s : State} (hw : s.npd.Writes) : SameReads s (npdStep s).state := by
  rw [Machine.npdStep, npdAction_write hw]
  exact Flow.rel_andThen trans
    (Flow.rel_andThen trans (SameReads.receiveWrite (issueWrite (putWord (rowWord s) s)))
      fun t _ => SameReads.delay _ t)
    fun _ _ => ⟨rfl, rfl⟩

/-- In write mode a writing row is followed by another, or by `DONE` (R172, R184). -/
theorem npdNext_writes_or_done (sample : RdSample) (len : Bool) {q : Npd} (h : q.Writes) :
    npdNext sample false len q = .done ∨ (npdNext sample false len q).Writes := by
  revert len
  rcases h with rfl | rfl | rfl | rfl <;> cases sample <;> decide

theorem SameReads.npdRun (n : Nat) {s : State} (hrw : s.rw = false) (hq : s.npd = .done ∨ s.npd.Writes) :
    SameReads s (npdRun n s).state := by
  induction n generalizing s with
  | zero => exact ⟨rfl, rfl⟩
  | succ n ih =>
    rw [Machine.npdRun]
    split_ifs with hd
    · exact ⟨rfl, rfl⟩
    · have hw := hq.resolve_left hd
      refine Flow.rel_andThen trans (SameReads.npdStep hw) fun t ht => ?_
      obtain rfl := npdStep_write_going hw ht
      exact ih hrw (by simpa [hrw] using npdNext_writes_or_done s.prm.rdSample s.len hw)

theorem SameReads.xfer (rs : Bool) (v : Byte) (len : Bool) (s : State) : SameReads s (xfer rs false v len s).state :=
  SameReads.npdRun 6 (s := xferStart rs false v len s) rfl (.inr (.inl rfl))

/-- The state with everything blanked that CMD and DATA may write (R181, R182). -/
def byteFrame (s : State) : State :=
  { s with
    op := 0#4, a0 := 0#8, a1 := 0#8, a2 := 0#8, val := 0#8, rs := false, rw := false, len := false, word := 0#8,
    status := .ok, rdata := 0#8, top := .idle, npd := .done, rspValid := false, req := .none, bus := [],
    ctl := .unknown, tpIn := [], dlIn := [], trace := [], free := 0 }

theorem byteFrame_xfer (rs : Bool) (v : Byte) (len : Bool) (s : State) :
    byteFrame (xfer rs false v len s).state = byteFrame s := by
  have k := Kept.xfer rs false v len s
  have hseq : (xfer rs false v len s).state.seq = s.seq := SameSeq.acrossTransfers.xfer rs false v len s
  obtain ⟨hhi, hlo⟩ := SameReads.xfer rs v len s
  simp only [byteFrame, k.prm, k.pm, k.mapValid, k.blPol, k.devAddr, k.cols, k.rows, k.font, k.dispOn, k.curOn,
    k.blinkOn, k.entryLtr, k.autoscroll, k.blOn, k.initOk, k.hostIn, k.layerOut, hseq, hhi, hlo]

/-- States with the same frame differ in what CMD and DATA may write alone. -/
theorem eq_of_byteFrame_eq {s t : State} (h : byteFrame t = byteFrame s) :
    t = { s with
      op := t.op, a0 := t.a0, a1 := t.a1, a2 := t.a2, val := t.val, rs := t.rs, rw := t.rw,
      len := t.len, word := t.word, status := t.status, rdata := t.rdata, top := t.top, npd := t.npd,
      rspValid := t.rspValid, req := t.req, bus := t.bus, ctl := t.ctl, tpIn := t.tpIn,
      dlIn := t.dlIn, trace := t.trace, free := t.free } := by
  cases s
  cases t
  simpa [byteFrame] using h

/-- After the map check: the transfer, then a response, an error, or the wait for ever. -/
theorem byteBody_cases (rs : Bool) (s : State) :
    byteBody rs s = respond .ok 0#8 (xfer rs false s.a0 true s).state ∨
    byteBody rs s = raise .transportError (xfer rs false s.a0 true s).state ∨
    byteBody rs s = (xfer rs false s.a0 true s).state := by
  unfold byteBody
  cases xfer rs false s.a0 true s <;> simp

/-- The frame of an accepted CMD or DATA, and the latches of the other devices on the bus. -/
theorem frame_of_accepted_byte (op : BitVec 4) (rs : Bool) (byte a1 a2 : Byte) {s t : State}
    (ht : t = checked (byteBody rs) (accept op byte a1 a2 s)) :
    byteFrame t = byteFrame s ∧ (s.mapValid = false → t.bus = s.bus) ∧
      ∀ a : Nat, a ≠ s.devAddr.toNat → Memory.read t.bus a = Memory.read s.bus a := by
  cases hm : s.mapValid with
  | false =>
    rw [checked_invalid _ (by exact hm)] at ht
    subst ht
    exact ⟨rfl, fun _ => rfl, fun _ _ => rfl⟩
  | true =>
    rw [checked_valid _ (by exact hm)] at ht
    have hframe := byteFrame_xfer rs byte true (accept op byte a1 a2 s)
    have hbus := (Kept.xfer rs false byte true (accept op byte a1 a2 s)).bus
    rcases byteBody_cases rs (accept op byte a1 a2 s) with h | h | h <;> rw [h] at ht <;> subst ht <;>
      exact ⟨hframe, nofun, hbus⟩

end Sys2Proof.Machine

open Sys2Proof Sys2Proof.Machine

/-- Settles O36: both are an accepted byte. -/
theorem frameOfCmdAndData : Obligations.FrameOfCmdAndData := by
  rintro byte a1 a2 i s t (rfl | rfl) ht <;> injection ht with ht <;>
    exact (frame_of_accepted_byte _ _ byte a1 a2 ht.symm).imp_left eq_of_byteFrame_eq
end

section
/-! PROOFS. The register-select and read/write levels of every word (O43): an instruction writes no word that its
`successEvents` do not name, and those carry the levels of its operation. -/

namespace Sys2Proof.Machine

/-- The operation whose words select the data register (R182). -/
def selectsData : Instr → Bool
  | .data .. => true
  | _ => false

/-- The operations whose words set read mode (R231). -/
def readsBack : Instr → Bool
  | .rdbf .. | .rdac .. => true
  | _ => false

theorem selectsData_eq_false {i : Instr} (h : ∀ b a1 a2, i ≠ .data b a1 a2) : selectsData i = false := by
  cases i
  case data => exact absurd rfl (h _ _ _)
  all_goals rfl

theorem readsBack_eq_false {i : Instr} (h : ∀ a0 a1 a2, i ≠ .rdbf a0 a1 a2 ∧ i ≠ .rdac a0 a1 a2) :
    readsBack i = false := by
  cases i
  case rdbf => exact absurd rfl (h _ _ _).1
  case rdac => exact absurd rfl (h _ _ _).2
  all_goals rfl

/-- Register-select and read/write stand at these levels, and in read mode the data lines are high (R231, R239). -/
def ControlLines (pm : PinMap) (rs rw : Bool) (w : Byte) : Prop :=
  atSlot pm w slotRS = rs ∧ atSlot pm w slotRW = rw ∧ (rw = true → (log pm w).extractLsb' 1 4 = 0xF#4)

/-- Every word an event list writes has these levels. -/
def LinesThroughout (pm : PinMap) (rs rw : Bool) (ev : List Event) : Prop :=
  ∀ w : Byte, Event.write w ∈ ev → ControlLines pm rs rw w

theorem linesThroughout_append {pm : PinMap} {rs rw : Bool} {ev ev' : List Event} :
    LinesThroughout pm rs rw (ev ++ ev') ↔ LinesThroughout pm rs rw ev ∧ LinesThroughout pm rs rw ev' := by
  simp only [LinesThroughout, List.mem_append, or_imp, forall_and]

theorem linesThroughout_delays (pm : PinMap) (rs rw : Bool) (l : List Micros) :
    LinesThroughout pm rs rw (l.map Event.delay) := by simp [LinesThroughout]

theorem linesThroughout_delay (pm : PinMap) (rs rw : Bool) (n : Micros) :
    LinesThroughout pm rs rw [.delay n] := linesThroughout_delays pm rs rw [n]

section
variable {s : State} (hp : PinMap.IsPerm s.pm)
include hp

theorem controlLines_encWord (rs rw e : Bool) (n : Nibble) (hn : rw = true → n = 0xF#4) :
    ControlLines s.pm rs rw (encWord s rs rw e n) := by
  obtain ⟨hfield, hrs, hrw, -, -⟩ := fields_of_append rs rw e (backlightLevel s) n
  rw [← log_encWord s hp] at hfield hrs hrw
  exact ⟨(log_getLsbD _ _ slotRS).symm.trans hrs, (log_getLsbD _ _ slotRW).symm.trans hrw,
    fun h => hfield.trans (hn h)⟩

theorem linesThroughout_nibbleEvents (rs : Bool) (n : Nibble) :
    LinesThroughout s.pm rs false (nibbleEvents s rs n) := by
  intro w hw
  obtain rfl | rfl : w = encWord s rs false true n ∨ w = encWord s rs false false n := by
    simpa [nibbleEvents] using hw
  · exact controlLines_encWord hp rs false true n nofun
  · exact controlLines_encWord hp rs false false n nofun

theorem linesThroughout_byteEvents (rs : Bool) (v : Byte) : LinesThroughout s.pm rs false (byteEvents s rs v) :=
  linesThroughout_append.2 ⟨linesThroughout_nibbleEvents hp rs _, linesThroughout_nibbleEvents hp rs _⟩

theorem linesThroughout_readPhaseEvents : LinesThroughout s.pm false true (readPhaseEvents s) := by
  intro w hw
  obtain rfl | rfl : w = encWord s false true true 0xF#4 ∨ w = encWord s false true false 0xF#4 := by
    unfold readPhaseEvents at hw
    split at hw <;> simpa using hw
  · exact controlLines_encWord hp false true true _ fun _ => rfl
  · exact controlLines_encWord hp false true false _ fun _ => rfl

theorem linesThroughout_readEvents (len : Bool) : LinesThroughout s.pm false true (readEvents s len) := by
  have h := linesThroughout_readPhaseEvents hp
  cases len
  · exact h
  · exact linesThroughout_append.2 ⟨h, h⟩

/-- The backlight-only word has every line but the backlight's low (R263). -/
theorem linesThroughout_backlightEvents (on : Byte) :
    LinesThroughout s.pm false false (backlightEvents s on) := by
  intro w hw
  obtain rfl : w = blMask { s with blOn := on.getLsbD 0 } := by simpa [backlightEvents] using hw
  have hlevel := atSlot_blMask { s with blOn := on.getLsbD 0 } hp
  exact ⟨(hlevel slotRS).trans (by simp [slotRS, slotBL]), (hlevel slotRW).trans (by simp [slotRW, slotBL]), nofun⟩

theorem linesThroughout_initEvents (rows : Byte) (font : Bool) :
    LinesThroughout s.pm false false (initEvents s rows font) := by
  simp only [initEvents, linesThroughout_append, linesThroughout_nibbleEvents hp, linesThroughout_byteEvents hp,
    linesThroughout_delay, and_self]

theorem linesThroughout_successEvents (i : Instr) :
    LinesThroughout s.pm (selectsData i) (readsBack i) (successEvents s i) := by
  cases i
  case init => exact linesThroughout_initEvents hp _ _
  case backlight => exact linesThroughout_backlightEvents hp _
  case rdbf | rdac => exact linesThroughout_readEvents hp _
  case kProbe =>
    exact linesThroughout_append.2 ⟨linesThroughout_nibbleEvents hp _ _, linesThroughout_delays _ _ _ _⟩
  case kSwitch4 => exact linesThroughout_nibbleEvents hp _ _
  case kClear =>
    exact linesThroughout_append.2 ⟨linesThroughout_byteEvents hp _ _, linesThroughout_delay _ _ _ _⟩
  all_goals exact linesThroughout_byteEvents hp _ _

end

/-- An instruction writes no word but those of the events it plays. -/
theorem Performs.written {s t : State} {ev : List Event} (h : Performs s ev t) :
    ∃ made : List Event, t.trace = s.trace ++ made ∧ ∀ w : Byte, Event.write w ∈ made → Event.write w ∈ ev := by
  obtain ⟨f, hf, hl⟩ := h
  have hend := hf.endsAfter
  cases f with
  | going u =>
    have hu : u.trace = s.trace ++ ev := hend
    rcases hl with hl | ⟨d, hl⟩
    · exact ⟨ev, hl.trans hu, fun _ => id⟩
    · exact ⟨ev ++ [.rsp .ok d], by rw [hl, hu, List.append_assoc], by simp⟩
  | aborted u =>
    obtain ⟨p, e, q, rfl, -, hu⟩ := hend
    have ht : t.trace = u.trace ++ [.rsp .transportError 0#8] := hl
    exact ⟨p ++ [e] ++ [.rsp .transportError 0#8], by rw [ht, hu, List.append_assoc], fun w hw => by
      simp only [List.mem_append, List.mem_cons] at hw ⊢; tauto⟩
  | waiting u =>
    obtain ⟨p, q, rfl, hu⟩ := hend
    obtain ⟨rfl, -, -⟩ := hl
    exact ⟨p, hu, fun w hw => List.mem_append_left q hw⟩

end Sys2Proof.Machine

open Sys2Proof Sys2Proof.Machine

/-- Settles O43: the words written are among those of the instruction's events, and these carry its levels. -/
theorem controlLinesOfEveryWord : Obligations.ControlLinesOfEveryWord := by
  intro i s t h hm ht
  have hp := h.mapIsPerm hm
  obtain ⟨made, htr, hmade⟩ := (performs_exec hp hm i ht).written
  refine ⟨made, htr, fun w hw => ?_⟩
  obtain ⟨hrs, hrw, hdata⟩ := linesThroughout_successEvents hp i w (hmade w hw)
  refine ⟨fun hi => hrs.trans (selectsData_eq_false hi), ?_, fun hi => hrw.trans (readsBack_eq_false hi), ?_⟩
  · rintro b a1 a2 rfl
    exact hrs
  · rintro a0 a1 a2 (rfl | rfl) <;> exact ⟨hrw, hdata rfl⟩
end

section
/-! PROOFS. A failed call ends every instruction (O29): the events it plays are cut after that call, the word latch
holds the last word written, and the error is the response. -/

namespace Sys2Proof.Machine

open Expect

/-! ### The word latch and the trace -/

/-- The trace grew, and the word latch holds the last word written since, or what it held where none was (R23). -/
def WordLogged (s t : State) : Prop :=
  ∃ ev : List Event, t.trace = s.trace ++ ev ∧ t.word = (writtenWords ev).getLast?.getD s.word

theorem WordLogged.of_same {s t : State} (htr : t.trace = s.trace) (hw : t.word = s.word) : WordLogged s t :=
  ⟨[], by simp [htr], by simp [writtenWords, hw]⟩

theorem WordLogged.trans (a b c : State) (h : WordLogged a b) (g : WordLogged b c) : WordLogged a c := by
  obtain ⟨e, hb, hwb⟩ := h
  obtain ⟨e', hc, hwc⟩ := g
  refine ⟨e ++ e', by rw [hc, hb, List.append_assoc], ?_⟩
  rw [hwc, hwb, writtenWords, writtenWords, writtenWords, List.filterMap_append, List.getLast?_append]
  cases (e'.filterMap _).getLast? <;> rfl

theorem WordLogged.write (w : Byte) (s : State) : WordLogged s (issueWrite (putWord w s)) :=
  ⟨[.write w], rfl, rfl⟩

theorem WordLogged.receiveWrite (s : State) : WordLogged s (receiveWrite s).state := by
  unfold Machine.receiveWrite
  split <;> exact .of_same (by simp) (by simp)

theorem WordLogged.read (s : State) : WordLogged s (receiveRead (issueRead s)).state := by
  unfold receiveRead
  split <;> exact ⟨[.read], by simp, by simp [writtenWords]⟩

theorem WordLogged.delay (n : Micros) (s : State) : WordLogged s (delay n s).state := by
  unfold Machine.delay receiveDelay
  split <;> exact ⟨[.delay n], rfl, rfl⟩

theorem WordLogged.writeThenDelay (w : Byte) (n : Micros) (s : State) :
    WordLogged s ((Machine.receiveWrite (issueWrite (putWord w s))).andThen (Machine.delay n)).state :=
  Flow.rel_andThen trans (trans _ _ _ (.write w s) (.receiveWrite _)) fun t _ => .delay n t

theorem WordLogged.npdStep {s : State} (hn : s.npd ≠ .done) : WordLogged s (npdStep s).state := by
  refine Flow.rel_andThen trans ?_ fun t _ => .of_same rfl rfl
  rcases Npd.writes_or_samples hn with hw | hr
  · rw [npdAction_write hw]; exact .writeThenDelay _ _ s
  · rw [npdAction_read hr]; exact .read s

theorem WordLogged.npdRun (n : Nat) (s : State) : WordLogged s (npdRun n s).state := by
  induction n generalizing s with
  | zero => exact .of_same rfl rfl
  | succ n ih =>
    rw [Machine.npdRun]
    split_ifs with hn
    · exact .of_same rfl rfl
    · exact Flow.rel_andThen trans (.npdStep hn) fun t _ => ih t

theorem WordLogged.xfer (rs rw : Bool) (v : Byte) (len : Bool) (s : State) :
    WordLogged s (xfer rs rw v len s).state :=
  trans _ _ _ (.of_same rfl rfl) (.npdRun 6 (xferStart rs rw v len s))

theorem WordLogged.seqSend (r : SeqRow) (s : State) : WordLogged s (seqSend r s).state := by
  refine Flow.rel_andThen trans (.xfer _ _ _ _ s) fun t _ => ?_
  cases r.own with
  | some n => exact .delay n t
  | none => exact .of_same rfl rfl

theorem WordLogged.seqAction (s : State) : WordLogged s (seqAction s).state := by
  unfold Machine.seqAction
  split
  · exact .seqSend _ s
  · split_ifs
    · exact .delay _ s
    · exact .of_same rfl rfl

theorem WordLogged.seqRun (n : Nat) (s : State) : WordLogged s (seqRun n s).state := by
  induction n generalizing s with
  | zero => exact .of_same rfl rfl
  | succ n ih =>
    rw [Machine.seqRun]
    split_ifs
    · exact Flow.rel_andThen trans (.seqAction s) fun t _ =>
        trans _ _ _ (.of_same (by simp [seqAdvance]) (by simp [seqAdvance])) (ih _)
    · exact .of_same rfl rfl

/-! ### The failed call -/

/-- Among the answers to come to the calls of `ev`, number `j` is the first that is not ok, and it is `fail`. -/
structure FailsAt (j : Nat) (ev : List Event) (s : State) : Prop where
  delays : DelaysEnd s
  inside : j < calls ev
  before : CallsSucceed j s
  failed : answer j s = .fail

theorem FailsAt.of_same {j : Nat} {ev : List Event} {s t : State} (h : FailsAt j ev s) (hs : SameScript s t) :
    FailsAt j ev t := by
  have ha (k : Nat) : answer k t = answer k s := answer_congr k hs.tpIn hs.free
  exact ⟨by rw [DelaysEnd, hs.dlIn]; exact h.delays, h.inside, fun k hk => by rw [ha]; exact h.before k hk,
    (ha j).trans h.failed⟩

/-- A flow whose call number `j` is the first to fail aborts there, with the trace up to it (R178). -/
theorem Plays.aborts_at_failed_call {s : State} {ev : List Event} {f : Flow} (h : Plays s ev f) {j : Nat}
    (hf : FailsAt j ev s) : ∃ u, f = .aborted u ∧ u.trace = s.trace ++ cutAtCall j ev := by
  induction h generalizing j with
  | finished h => exact absurd hf.inside (by simp [calls])
  | @answered s e r f he ha _ ih =>
    obtain ⟨hd, hj, hk, hs⟩ := hf
    cases j with
    | zero => rw [answer_zero] at hs; simp [hs, TpAnswer.isOk] at ha
    | succ j =>
      obtain ⟨u, hu, ht⟩ := ih (j := j) ⟨fun a ha => hd a (by simpa using ha),
        by simp [calls, he] at hj ⊢; omega, hk.called e, by rw [answer_called]; exact hs⟩
      exact ⟨u, hu, by simp [ht, cutAtCall, cutAt, he]⟩
  | @failed s t e r he ha h =>
    obtain rfl := eq_zero_of_callsSucceed hf.before (by rw [ha]; rfl)
    exact ⟨t, rfl, by simp [h, cutAtCall, cutAt, he]⟩
  | unanswered he ha hq h =>
    obtain rfl := eq_zero_of_callsSucceed hf.before (by rw [ha]; rfl)
    have hs := hf.failed
    rw [answer_zero, ha] at hs
    cases hs
  | @ended s n r f hh _ ih =>
    obtain ⟨hd, hj, hk, hs⟩ := hf
    obtain ⟨u, hu, ht⟩ := ih (j := j) ⟨hd.tail rfl, by simpa [calls, Event.isCall] using hj, hk.waited n,
      by rw [answer_waited]; exact hs⟩
    exact ⟨u, hu, by simp [ht, cutAtCall, cutAt, Event.isCall]⟩
  | endless hh hq h => cases hf.delays _ (List.mem_of_mem_head? hh)

/-- The first call of the events is a write. -/
def WritesFirst (ev : List Event) : Prop := ∃ w : Byte, ev.find? Event.isCall = some (.write w)

theorem WritesFirst.writtenWords_ne_nil {ev : List Event} (h : WritesFirst ev) (j : Nat) :
    writtenWords (cutAtCall j ev) ≠ [] := by
  obtain ⟨w, hw⟩ := h
  induction ev with
  | nil => cases hw
  | cons e r ih =>
    cases e with
    | write v => cases j <;> simp [cutAtCall, cutAt, Event.isCall, writtenWords]
    | read => simp [Event.isCall] at hw
    | delay _ | rsp _ _ =>
      simpa [cutAtCall, cutAt, Event.isCall, writtenWords] using ih (by simpa [Event.isCall] using hw)

theorem writesFirst_readEvents (s : State) (len : Bool) : WritesFirst (readEvents s len) := by
  unfold WritesFirst readEvents readPhaseEvents
  cases s.prm.rdSample <;> cases len <;> exact ⟨_, rfl⟩

theorem writesFirst_successEvents (s : State) (i : Instr) : WritesFirst (successEvents s i) := by
  cases i
  case rdbf | rdac => exact writesFirst_readEvents s _
  all_goals exact ⟨_, rfl⟩

/-- The state after an operation whose events were cut off by a failed call (R178, R310). -/
structure FailedAfter (tr cut : List Event) (t : State) : Prop where
  trace : t.trace = tr ++ cut ++ [.rsp .transportError 0#8]
  word : (writtenWords cut).getLast? = some t.word
  status : t.status = .transportError
  rdata : t.rdata = 0#8
  rspValid : t.rspValid = true
  top : t.top = .idle
  npd : t.npd = .done
  req : t.req = .none

/-- A flow in which a call fails: where it aborts, and that either way to end makes the failed operation's state. -/
theorem Plays.failedAfter {s : State} {ev : List Event} {f : Flow} {j : Nat} (h : Plays s ev f)
    (hw : WordLogged s f.state) (hf : FailsAt j ev s) (hfirst : WritesFirst ev) :
    ∃ u, f = .aborted u ∧ FailedAfter s.trace (cutAtCall j ev) (raise .transportError u) ∧
      FailedAfter s.trace (cutAtCall j ev) (raiseInitFailed u) := by
  obtain ⟨u, rfl, htr⟩ := h.aborts_at_failed_call hf
  obtain ⟨made, hmade, hword⟩ : WordLogged s u := hw
  obtain rfl : made = cutAtCall j ev := List.append_cancel_left (hmade.symm.trans htr)
  have hlast : (writtenWords (cutAtCall j ev)).getLast? = some u.word := by
    rw [hword, List.getLast?_eq_some_getLast (hfirst.writtenWords_ne_nil j)]
    rfl
  have htrace : u.trace ++ [.rsp .transportError 0#8] =
    s.trace ++ cutAtCall j ev ++ [.rsp .transportError 0#8] := by rw [htr]
  exact ⟨u, rfl, ⟨htrace, hlast, rfl, rfl, rfl, rfl, rfl, rfl⟩, ⟨htrace, hlast, rfl, rfl, rfl, rfl, rfl, rfl⟩⟩

/-! ### The operations -/

/-- An operation whose call number `j` fails leaves `t`, and the layer's output as it was. -/
def Fails (j : Nat) (ev : List Event) (s t : State) : Prop :=
  FailedAfter s.trace (cutAtCall j ev) t ∧ t.layerOut = s.layerOut

theorem Plays.fails {s : State} {ev : List Event} {f : Flow} {j : Nat} {finish onAbort : State → State}
    (h : Plays s ev f) (hw : WordLogged s f.state) (k : Kept s f.state) (hfirst : WritesFirst ev)
    (habort : onAbort = raise .transportError ∨ onAbort = raiseInitFailed) (hf : FailsAt j ev s) :
    Fails j ev s ((f.andThen fun t => .going (finish t)).settle onAbort) := by
  obtain ⟨u, rfl, hraise, hinit⟩ := h.failedAfter hw hf hfirst
  rcases habort with rfl | rfl
  · exact ⟨hraise, k.layerOut⟩
  · exact ⟨hinit, k.layerOut⟩

section
variable {s : State} {j : Nat} (hp : PinMap.IsPerm s.pm)
include hp

theorem byteBody_fails {rs : Bool} (hf : FailsAt j (byteEvents s rs s.a0) s) :
    Fails j (byteEvents s rs s.a0) s (byteBody rs s) :=
  (plays_send hp rs s.a0 true).fails (.xfer ..) (Kept.xfer ..) ⟨_, rfl⟩ (.inl rfl) hf

theorem rdbfBody_fails (hf : FailsAt j (readEvents s s.prm.bfFullCycle) s) :
    Fails j (readEvents s s.prm.bfFullCycle) s (rdbfBody s) :=
  (plays_readXfer hp _).fails (.xfer ..) (Kept.xfer ..) (writesFirst_readEvents ..) (.inl rfl) hf

theorem rdacBody_fails (hf : FailsAt j (readEvents s true) s) : Fails j (readEvents s true) s (rdacBody s) :=
  (plays_readXfer hp _).fails (.xfer ..) (Kept.xfer ..) (writesFirst_readEvents ..) (.inl rfl) hf

omit hp in
theorem backlightBody_fails (hf : FailsAt j (backlightEvents s s.a0) s) :
    Fails j (backlightEvents s s.a0) s (backlightBody s) :=
  (plays_writeThenDelay s.prm.tSettle (backlightWord s)).fails (.writeThenDelay (blMask _) _ _)
    (Kept.acrossCalls.writeThenDelay ..) ⟨_, rfl⟩ (.inl rfl) (hf.of_same ⟨rfl, rfl, rfl, rfl⟩)

theorem initBody_fails (hf : FailsAt j (initEvents s s.a1 (s.a2.getLsbD 0)) s) :
    Fails j (initEvents s s.a1 (s.a2.getLsbD 0)) s (initBody s) := by
  rw [← seqEvents_initStart] at hf ⊢
  exact (plays_seqRun (s := initStart s) hp 10).fails (.seqRun ..) (Kept.seqRun ..)
    (by rw [seqEvents_initStart]; exact ⟨_, rfl⟩) (.inr rfl) (hf.of_same ⟨rfl, rfl, rfl, rfl⟩)

/-- The operations of the command port. -/
theorem port_fails {i : Instr} {w : CmdWord} {t : State} (hm : s.mapValid = true) (he : encode i = .port w)
    (hf : FailsAt j (successEvents s i) s) (ht : exec i s = .next t) : Fails j (successEvents s i) s t := by
  have accepted {op : BitVec 4} {a0 a1 a2 : Byte} {body : State → State} {ev : List Event} (hf : FailsAt j ev s)
      (hbody : FailsAt j ev (accept op a0 a1 a2 s) →
        Fails j ev (accept op a0 a1 a2 s) (body (accept op a0 a1 a2 s))) :
      Fails j ev s (checked body (accept op a0 a1 a2 s)) := by
    rw [checked_valid _ (by exact hm)]
    exact hbody (hf.of_same ⟨rfl, rfl, rfl, rfl⟩)
  cases i <;> cases he <;> cases ht
  case init => exact accepted hf (initBody_fails (s := accept ..) hp)
  case cmd => exact accepted hf (byteBody_fails (s := accept ..) hp)
  case data => exact accepted hf (byteBody_fails (s := accept ..) hp)
  case backlight => exact accepted hf (backlightBody_fails (s := accept ..))
  case rdbf => exact accepted hf (rdbfBody_fails (s := accept ..) hp)
  case rdac => exact accepted hf (rdacBody_fails (s := accept ..) hp)

omit hp in
/-- A row of the sequencer runs its transaction alone (log 1). -/
theorem exec_sequencerRow {i : Instr} {len : Bool} {v : Byte} (he : encode i = .sequencer len v) (s : State) :
    ∃ r, exec i s = .next (seqAlone r s) ∧ successEvents s i = seqRowEvents s r := by
  cases i <;> cases he
  case kProbe x =>
    have hx : highNibble (probeByte x) = 3#4 := by revert x; decide
    exact ⟨kProbeRow x s, rfl, by rw [successEvents, ← hx]; rfl⟩
  case kSwitch4 x =>
    have hx : highNibble (switch4Byte x) = 2#4 := by revert x; decide
    exact ⟨kSwitch4Row x, rfl, by rw [successEvents, ← hx]; rfl⟩
  case kFuncset n f => exact ⟨kFuncsetRow n f, rfl, rfl⟩
  case kDisplayOff => exact ⟨kDisplayOffRow, rfl, rfl⟩
  case kClear => exact ⟨kClearRow s, rfl, rfl⟩
  case kEntryLtr => exact ⟨kEntryLtrRow, rfl, rfl⟩
  case kDisplayOn => exact ⟨kDisplayOnRow, rfl, rfl⟩

/-- A row of the sequencer fails as INIT does, and leaves `SEQ` (R208, log 1). -/
theorem sequencerRow_fails {i : Instr} {len : Bool} {v : Byte} {t : State} (hm : s.mapValid = true)
    (he : encode i = .sequencer len v) (hf : FailsAt j (successEvents s i) s) (ht : exec i s = .next t) :
    Fails j (successEvents s i) s t ∧ t.initOk = false ∧ t.seq = s.seq := by
  obtain ⟨r, hexec, hev⟩ := exec_sequencerRow he s
  obtain rfl : seqAlone r s = t := by rw [hexec] at ht; injection ht
  have hfirst := writesFirst_successEvents s i
  rw [hev] at hf hfirst ⊢
  have k := Kept.seqSend r (rowRunning s)
  have hseq := SameSeq.acrossTransfers.seqSend r (rowRunning s)
  obtain ⟨u, hu, -, hfailed⟩ := (plays_seqSend (s := rowRunning s) hp r).failedAfter (.seqSend ..)
    (hf.of_same ⟨rfl, rfl, rfl, rfl⟩) hfirst
  have halone : seqAlone r s = raiseInitFailed u := by
    change checked _ (rowRunning s) = _
    rw [checked_valid _ (by exact hm), hu]
    rfl
  rw [hu] at k hseq
  rw [halone]
  exact ⟨⟨hfailed, k.layerOut⟩, rfl, hseq⟩

omit hp in
/-- A row of the layer writes its shadow flags, if any, issues its CMD, and may wait (R272 to R279). -/
theorem exec_layerRow {i : Instr} {v : Byte} (he : encode i = .layer v) (s : State) :
    successEvents s i = byteEvents s false v ∧ ∃ d c b l a : Bool,
      exec i s = .next (layerCmd v (displayFlags d c b (entryFlags l a s))) ∨
      exec i s = .next (layerWait (layerCmd v (displayFlags d c b (entryFlags l a s)))) := by
  cases i <;> cases he
  case clear | home => exact ⟨rfl, s.dispOn, s.curOn, s.blinkOn, s.entryLtr, s.autoscroll, .inr rfl⟩
  case displayctl d c b => exact ⟨rfl, d, c, b, s.entryLtr, s.autoscroll, .inl rfl⟩
  case entrymode l a => exact ⟨rfl, s.dispOn, s.curOn, s.blinkOn, l, a, .inl rfl⟩
  case setddram | shift | setcgram =>
    exact ⟨rfl, s.dispOn, s.curOn, s.blinkOn, s.entryLtr, s.autoscroll, .inl rfl⟩

omit hp in
/-- After an error the layer makes no wait (R270, log 17). -/
theorem layerWait_of_transportError {t : State} (h : t.status = .transportError) : layerWait t = t :=
  if_neg (by simp [succeeded, h])

theorem layerCmd_fails {v : Byte} (hm : s.mapValid = true) (hf : FailsAt j (byteEvents s false v) s) :
    FailedAfter s.trace (cutAtCall j (byteEvents s false v)) (layerCmd v s) ∧ (layerCmd v s).initOk = s.initOk := by
  obtain ⟨hframe, -⟩ := frame_of_accepted_byte opCmd false v 0#8 0#8 (s := layerIssue (cmdWord opCmd v 0#8 0#8) s) rfl
  refine ⟨?_, (congrArg State.initOk hframe :)⟩
  rw [layerCmd, checked_valid _ (by exact hm)]
  exact (byteBody_fails (s := accept opCmd v 0#8 0#8 (layerIssue _ s)) hp (hf.of_same ⟨rfl, rfl, rfl, rfl⟩)).1

/-- A row of the layer has issued its one CMD, and leaves `INIT_OK` (R270, log 17). -/
theorem layerRow_fails {i : Instr} {v : Byte} {t : State} (hm : s.mapValid = true) (he : encode i = .layer v)
    (hf : FailsAt j (successEvents s i) s) (ht : exec i s = .next t) :
    FailedAfter s.trace (cutAtCall j (successEvents s i)) t ∧ t.initOk = s.initOk ∧
      t.layerOut = s.layerOut ++ [LayerEvent.issue (cmdWord opCmd v 0#8 0#8)] := by
  obtain ⟨hev, d, c, b, l, a, hexec⟩ := exec_layerRow he s
  rw [hev] at hf ⊢
  obtain ⟨h, hinit⟩ := layerCmd_fails (s := displayFlags d c b (entryFlags l a s)) hp hm
    (hf.of_same ⟨rfl, rfl, rfl, rfl⟩)
  obtain rfl : layerCmd v (displayFlags d c b (entryFlags l a s)) = t := by
    rw [layerWait_of_transportError h.status, or_self, ht] at hexec
    injection hexec.symm
  exact ⟨h, hinit, layerCmd_layerOut _ _⟩

end

end Sys2Proof.Machine

open Sys2Proof Sys2Proof.Machine

/-- Settles O29, by the place of the instruction: an operation of the command port, a row of the sequencer, a row
of the layer. -/
theorem failedCallEndsTheOperation : Obligations.FailedCallEndsTheOperation := by
  intro i j s hr hd hj hk hs
  have hf : FailsAt j (successEvents s i) s := ⟨hd, hj, hk, hs⟩
  have hp := hr.inv.mapIsPerm hr.map
  obtain ⟨t, ht⟩ := exec_next i s
  have hport {w : CmdWord} (he : encode i = .port w) := port_fails hp hr.map he hf ht
  have hseq {len : Bool} {v : Byte} (he : encode i = .sequencer len v) := sequencerRow_fails hp hr.map he hf ht
  have hlayer {v : Byte} (he : encode i = .layer v) := layerRow_fails hp hr.map he hf ht
  obtain ⟨h, hout⟩ : FailedAfter s.trace (cutAtCall j (successEvents s i)) t ∧
      (¬ Expect.IsLayerRow i → t.layerOut = s.layerOut) := by
    cases he : encode i with
    | port w => exact ⟨(hport he).1, fun _ => (hport he).2⟩
    | sequencer len v => exact ⟨(hseq he).1.1, fun _ => (hseq he).1.2⟩
    | layer v => exact ⟨(hlayer he).1, fun hn => absurd ⟨v, he⟩ hn⟩
  exact ⟨t, ht, h.trace, h.word, h.status, h.rdata, h.rspValid, h.top, h.npd, h.req,
    fun ⟨_, _, he⟩ => (hseq he).2, fun ⟨_, he⟩ => (hlayer he).2.1, fun _ he => (hlayer he).2.2, hout⟩
end

section
/-! PROOFS. The function set byte by geometry (O10). -/

namespace Sys2Proof.Machine

/-- R205: N is 0 for at most one row, and the requested font stands. -/
theorem funcsetByte_oneRow {rows : Byte} (h : rows ≤ 1#8) (font : Bool) :
    funcsetByte (twoLines rows) (effectiveFont font rows) = funcsetByte false font := by
  simp [twoLines, effectiveFont, h, BitVec.not_lt.2 h]

/-- R203, R205: N is 1 for two rows or more, and the font is forced to 5x8. -/
theorem funcsetByte_twoRows {rows : Byte} (h : 2#8 ≤ rows) (font : Bool) :
    funcsetByte (twoLines rows) (effectiveFont font rows) = 0x28#8 := by
  have h1 : 1#8 < rows := show 1 < rows.toNat from h
  simp only [twoLines, effectiveFont, h1, BitVec.not_le.2 h1, decide_true, decide_false, Bool.and_false]
  rfl

/-- One row at most, or two at least. -/
theorem rows_le_one_or_two_le (rows : Byte) : rows ≤ 1#8 ∨ 2#8 ≤ rows := (Nat.lt_or_ge 1 rows.toNat).symm

end Sys2Proof.Machine

open Sys2Proof Sys2Proof.Machine

/-- Settles O10, by the two cases of the row count. -/
theorem functionSetByteByGeometry : Obligations.FunctionSetByteByGeometry := by
  intro rows font
  refine ⟨?_, ?_, fun h => funcsetByte_twoRows h font, ?_⟩
  · rintro h rfl
    exact funcsetByte_oneRow h false
  · rintro h rfl
    exact funcsetByte_oneRow h true
  · rcases rows_le_one_or_two_le rows with h | h
    · rw [funcsetByte_oneRow h]
      cases font <;> decide
    · rw [funcsetByte_twoRows h]
      decide
end

section
/-! PROOFS. The frames of INIT and of a sequencer's row run alone, whatever the collaborators answer (O39, O40):
every transfer of the sequencer is a write, so the read latches stay too. -/

namespace Sys2Proof.Machine

/-! ### The sequencer reads nothing back -/

theorem SameReads.ownDelay (own : Option Micros) (s : State) : SameReads s (ownDelay own s).state := by
  cases own with
  | some n => exact SameReads.delay n s
  | none => exact ⟨rfl, rfl⟩

theorem SameReads.seqSend (r : SeqRow) (s : State) : SameReads s (seqSend r s).state :=
  Flow.rel_andThen trans (SameReads.xfer false r.val r.len s) fun t _ => SameReads.ownDelay r.own t

theorem SameReads.seqAction (s : State) : SameReads s (seqAction s).state := by
  unfold Machine.seqAction
  split
  · exact SameReads.seqSend _ s
  · split_ifs
    · exact SameReads.delay _ s
    · exact ⟨rfl, rfl⟩

theorem SameReads.seqRun (n : Nat) (s : State) : SameReads s (seqRun n s).state := by
  induction n generalizing s with
  | zero => exact ⟨rfl, rfl⟩
  | succ n ih =>
    rw [Machine.seqRun]
    split_ifs
    · exact Flow.rel_andThen trans (SameReads.seqAction s) fun t _ =>
        trans _ _ _ ⟨seqEffect_rdHi t, seqEffect_rdLo t⟩ (ih (seqAdvance t))
    · exact ⟨rfl, rfl⟩

/-! ### What may be written, blanked -/

/-- The state with everything blanked that a sequencer's row run alone may write (log 1, R208). -/
def rowFrame (s : State) : State :=
  { s with
    val := 0#8, rs := false, rw := false, len := false, word := 0#8, dispOn := false, curOn := false,
    blinkOn := false, entryLtr := false, autoscroll := false, initOk := false, status := .ok, rdata := 0#8,
    top := .idle, npd := .done, rspValid := false, req := .none, bus := [], ctl := .unknown, tpIn := [],
    dlIn := [], trace := [], free := 0 }

/-- The same for INIT, which writes the operand latches, the geometry and `SEQ` too (R201, R208). -/
def initFrame (s : State) : State :=
  { rowFrame s with op := 0#4, a0 := 0#8, a1 := 0#8, a2 := 0#8, cols := 0#8, rows := 0#8, font := false, seq := 0#4 }

theorem rowFrame_seqSend (r : SeqRow) (s : State) : rowFrame (seqSend r s).state = rowFrame s := by
  have k := Kept.seqSend r s
  have hseq : (seqSend r s).state.seq = s.seq := SameSeq.acrossTransfers.seqSend r s
  obtain ⟨hhi, hlo⟩ := SameReads.seqSend r s
  simp only [rowFrame, k.prm, k.pm, k.mapValid, k.blPol, k.devAddr, k.op, k.a0, k.a1, k.a2, k.cols, k.rows, k.font,
    k.blOn, k.hostIn, k.layerOut, hseq, hhi, hlo]

theorem initFrame_seqRun (n : Nat) (s : State) : initFrame (seqRun n s).state = initFrame s := by
  have k := Kept.seqRun n s
  obtain ⟨hhi, hlo⟩ := SameReads.seqRun n s
  simp only [initFrame, rowFrame, k.prm, k.pm, k.mapValid, k.blPol, k.devAddr, k.blOn, k.hostIn, k.layerOut, hhi, hlo]

/-- States with the same frame differ in what a row run alone may write alone. -/
theorem eq_of_rowFrame_eq {s t : State} (h : rowFrame t = rowFrame s) :
    t = { s with
      val := t.val, rs := t.rs, rw := t.rw, len := t.len, word := t.word,
      dispOn := t.dispOn, curOn := t.curOn, blinkOn := t.blinkOn, entryLtr := t.entryLtr,
      autoscroll := t.autoscroll, initOk := t.initOk, status := t.status, rdata := t.rdata,
      top := t.top, npd := t.npd, rspValid := t.rspValid, req := t.req, bus := t.bus, ctl := t.ctl,
      tpIn := t.tpIn, dlIn := t.dlIn, trace := t.trace, free := t.free } := by
  cases s
  cases t
  simpa [rowFrame] using h

/-- The same for what INIT may write. -/
theorem eq_of_initFrame_eq {s t : State} (h : initFrame t = initFrame s) :
    t = { s with
      op := t.op, a0 := t.a0, a1 := t.a1, a2 := t.a2, val := t.val, rs := t.rs, rw := t.rw,
      len := t.len, word := t.word, cols := t.cols, rows := t.rows, font := t.font,
      dispOn := t.dispOn, curOn := t.curOn, blinkOn := t.blinkOn, entryLtr := t.entryLtr,
      autoscroll := t.autoscroll, initOk := t.initOk, seq := t.seq, status := t.status,
      rdata := t.rdata, top := t.top, npd := t.npd, rspValid := t.rspValid, req := t.req,
      bus := t.bus, ctl := t.ctl, tpIn := t.tpIn, dlIn := t.dlIn, trace := t.trace,
      free := t.free } := by
  cases s
  cases t
  simpa [initFrame, rowFrame] using h

/-! ### The operations -/

/-- Nothing that `frame` shows changed, nor the latch of any device but the framer's own. -/
def FramedBy (frame : State → State) (s t : State) : Prop :=
  frame t = frame s ∧ ∀ a : Nat, a ≠ s.devAddr.toNat → Memory.read t.bus a = Memory.read s.bus a

/-- What shows the same and has the same latches is framed too. -/
theorem FramedBy.of_same {frame : State → State} {s u v : State} (h : FramedBy frame s u)
    (hv : frame v = frame u ∧ v.bus = u.bus) : FramedBy frame s v :=
  ⟨hv.1.trans h.1, by rw [hv.2]; exact h.2⟩

/-- An operation ends by its finish, its abort, or the wait for ever. -/
theorem FramedBy.settle {frame finish onAbort : State → State} {s : State} {f : Flow}
    (h : FramedBy frame s f.state) (hfin : ∀ u, frame (finish u) = frame u ∧ (finish u).bus = u.bus)
    (habort : ∀ u, frame (onAbort u) = frame u ∧ (onAbort u).bus = u.bus) :
    FramedBy frame s ((f.andThen fun u => .going (finish u)).settle onAbort) := by
  cases f with
  | going u => exact h.of_same (hfin u)
  | aborted u => exact h.of_same (habort u)
  | waiting u => exact h

/-- The map check first: an invalid map leaves every latch (R134, R305). -/
theorem FramedBy.checked {frame body : State → State} {s : State} (h : FramedBy frame s (body s))
    (hraise : ∀ u, frame (raise .configError u) = frame u) :
    FramedBy frame s (checked body s) ∧ (s.mapValid = false → (checked body s).bus = s.bus) := by
  cases hm : s.mapValid with
  | false =>
    rw [checked_invalid body hm]
    exact ⟨⟨hraise s, fun _ _ => rfl⟩, fun _ => rfl⟩
  | true =>
    rw [checked_valid body hm]
    exact ⟨h, nofun⟩

theorem initBody_framed (s : State) : FramedBy initFrame s (initBody s) :=
  FramedBy.settle (s := s) ⟨initFrame_seqRun 10 (initStart s), (Kept.seqRun 10 (initStart s)).bus⟩
    (fun _ => ⟨rfl, rfl⟩) fun _ => ⟨rfl, rfl⟩

theorem seqAlone_framed (r : SeqRow) (s : State) :
    FramedBy rowFrame s (seqAlone r s) ∧ (s.mapValid = false → (seqAlone r s).bus = s.bus) :=
  FramedBy.checked (s := rowRunning s)
    (FramedBy.settle ⟨rowFrame_seqSend r (rowRunning s), (Kept.seqSend r (rowRunning s)).bus⟩
      (fun _ => ⟨rfl, rfl⟩) fun _ => ⟨rfl, rfl⟩)
    fun _ => rfl

end Sys2Proof.Machine

open Sys2Proof Sys2Proof.Machine

/-- Settles O39: INIT after it is accepted (R201). -/
theorem frameOfInit : Obligations.FrameOfInit := by
  intro cols rows font s t ht
  injection ht with ht
  obtain ⟨⟨hframe, hbus⟩, hinvalid⟩ :=
    (initBody_framed (accept opInit cols rows font s)).checked fun _ => rfl
  rw [ht] at hframe hbus hinvalid
  exact ⟨eq_of_initFrame_eq hframe, hinvalid, hbus⟩

/-- Settles O40: each row runs its transaction alone. -/
theorem frameOfSequencerRows : Obligations.FrameOfSequencerRows := by
  intro x n f i s t hi ht
  obtain ⟨len, v, he⟩ : Expect.IsSequencerRow i := by
    simp only [List.mem_cons, List.not_mem_nil, or_false] at hi
    rcases hi with rfl | rfl | rfl | rfl | rfl | rfl | rfl <;> exact ⟨_, _, rfl⟩
  obtain ⟨r, hexec, -⟩ := exec_sequencerRow he s
  obtain rfl : seqAlone r s = t := by rw [hexec] at ht; injection ht
  obtain ⟨⟨hframe, hbus⟩, hinvalid⟩ := seqAlone_framed r s
  exact ⟨eq_of_rowFrame_eq hframe, hinvalid, hbus⟩
end

section
/-! PROOFS. A failed INIT stops in the step that its failed call belongs to (O30): the calls made so far lie between
those of the steps before it and those of the steps up to it. -/

namespace Sys2Proof.Machine

/-! ### How many calls the steps make -/

/-- The calls of the steps before step `q`: two in each of steps 1 to 4, four in each of steps 5 to 9 (R204). -/
def callsBefore (q : Nat) : Nat := if q ≤ 5 then 2 * (q - 1) else 8 + 4 * (q - 5)

theorem seqOfWrite_eq {q j : Nat} (h : callsBefore q ≤ j) (h' : j < callsBefore (q + 1)) :
    seqOfWrite j = q := by
  unfold seqOfWrite
  unfold callsBefore at h h'
  split_ifs at * <;> omega

theorem calls_append (ev ev' : List Event) : calls (ev ++ ev') = calls ev + calls ev' := by
  simp only [calls, List.filter_append, List.length_append]

theorem calls_delays (l : List Micros) : calls (l.map Event.delay) = 0 := by
  simp [calls, List.filter_map, Function.comp_def, Event.isCall]

theorem calls_seqRowEvents (s : State) (r : SeqRow) : calls (seqRowEvents s r) = if r.len then 4 else 2 := by
  rw [seqRowEvents, calls_append, calls_delays, sendEvents]
  cases r.len <;> rfl

theorem calls_seqStepEvents {s : State} (h : s.seq ≤ 9#4) :
    callsBefore s.seq.toNat + calls (seqStepEvents s) = callsBefore (s.seq.toNat + 1) := by
  have h9 : s.seq.toNat ≤ 9 := h
  unfold seqStepEvents seqRow
  interval_cases s.seq.toNat
  · simp only
    split_ifs <;> rfl
  all_goals
    simp only [calls_seqRowEvents]
    rfl

/-- Up to and including call number `j` there are `j + 1` calls. -/
theorem calls_cutAtCall {j : Nat} {ev : List Event} (h : j < calls ev) : calls (cutAtCall j ev) = j + 1 := by
  induction ev generalizing j with
  | nil => cases h
  | cons e r ih =>
    cases he : e.isCall with
    | false => simpa [cutAtCall, cutAt, calls, he] using ih (j := j) (by simpa [calls, he] using h)
    | true =>
      cases j with
      | zero => simp [cutAtCall, cutAt, calls, he]
      | succ j => simpa [cutAtCall, cutAt, calls, he] using ih (j := j) (by simpa [calls, he] using h)

/-! ### The step of the failed call -/

theorem Flow.andThen_eq_aborted {f : Flow} {k : State → Flow} {t : State} :
    f.andThen k = .aborted t ↔ f = .aborted t ∨ ∃ s, f = .going s ∧ k s = .aborted t := by
  cases f <;> simp [Flow.andThen]

/-- The sequencer aborted in the step `SEQ` names: of the calls made, the last is one of that step's. -/
theorem seqRun_aborted {n : Nat} {s u : State} (hp : PinMap.IsPerm s.pm) (h : seqRun n s = .aborted u) :
    ∃ made : List Event, u.trace = s.trace ++ made ∧
      callsBefore u.seq.toNat < callsBefore s.seq.toNat + calls made ∧
      callsBefore s.seq.toNat + calls made ≤ callsBefore (u.seq.toNat + 1) := by
  induction n generalizing s with
  | zero => cases h
  | succ n ih =>
    rw [seqRun] at h
    split_ifs at h with h9
    have hend := (plays_seqAction hp).endsAfter
    have hstep := calls_seqStepEvents h9
    rcases Flow.andThen_eq_aborted.1 h with hu | ⟨t, ht, hrun⟩
    · have hq : u.seq = s.seq := by
        have := SameSeq.acrossTransfers.seqAction s
        rwa [hu] at this
      rw [hu] at hend
      obtain ⟨p, e, q, hev, he, htr⟩ := hend
      have hone : calls [e] = 1 := by simp [calls, he]
      have hsplit : calls (seqStepEvents s) = calls (p ++ [e]) + calls q := by
        rw [hev, List.append_cons, calls_append]
      have hpos := calls_append p [e]
      exact ⟨p ++ [e], htr, by rw [hq]; omega, by rw [hq]; omega⟩
    · rw [ht] at hend
      have htr : t.trace = s.trace ++ seqStepEvents s := hend
      have k := Flow.rel_going ht (Kept.seqAction s)
      have hq : t.seq = s.seq := Flow.rel_going ht (SameSeq.acrossTransfers.seqAction s)
      obtain ⟨made, hmade, hlo, hhi⟩ := ih (s := seqAdvance t) (by rw [(Kept.seqAdvance t).pm, k.pm]; exact hp) hrun
      rw [seqAdvance_seq, hq, nextSeq_toNat h9] at hlo hhi
      refine ⟨seqStepEvents s ++ made, ?_, ?_, ?_⟩
      · rw [hmade, ← List.append_assoc, ← htr]
        exact congrArg (· ++ made) (seqEffect_trace t)
      all_goals rw [calls_append]; omega

/-! ### INIT -/

theorem calls_initEvents (s : State) (rows : Byte) (font : Bool) : calls (initEvents s rows font) = 28 := rfl

/-- INIT whose write number `j` fails: it aborts in that write's step, and has made the events up to it (R208). -/
theorem init_fails {j : Nat} {s : State} (hr : Ready s) (hd : DelaysEnd s) (hj : j < 28) (hk : CallsSucceed j s)
    (hf : answer j s = .fail) (cols rows font : Byte) :
    ∃ u : State, exec (.init cols rows font) s = .next (raiseInitFailed u) ∧
      Kept (initStart (accept opInit cols rows font s)) u ∧ u.seq.toNat = seqOfWrite j ∧
      u.trace = s.trace ++ cutAtCall j (initEvents s rows (font.getLsbD 0)) := by
  have hp := hr.inv.mapIsPerm hr.map
  have hfails : FailsAt j (seqEvents 10 (initStart (accept opInit cols rows font s))) s := by
    rw [seqEvents_initStart]
    exact ⟨hd, hj, hk, hf⟩
  have hplays := plays_seqRun (s := initStart (accept opInit cols rows font s)) hp 10
  obtain ⟨u, hu, htr⟩ := hplays.aborts_at_failed_call (hfails.of_same ⟨rfl, rfl, rfl, rfl⟩)
  have k := Kept.seqRun 10 (initStart (accept opInit cols rows font s))
  rw [hu] at k
  obtain ⟨made, hmade, hlo, hhi⟩ := seqRun_aborted (s := initStart (accept opInit cols rows font s)) hp hu
  obtain rfl := List.append_cancel_left (hmade.symm.trans htr)
  have hnone : callsBefore (initStart (accept opInit cols rows font s)).seq.toNat = 0 := rfl
  rw [calls_cutAtCall hfails.inside, hnone] at hlo hhi
  refine ⟨u, ?_, k, (seqOfWrite_eq (by omega) (by omega)).symm, ?_⟩
  · change Host.Outcome.next (checked initBody (accept opInit cols rows font s)) = _
    rw [checked_valid _ (by exact hr.map), initBody, hu]
    rfl
  · rw [htr, seqEvents_initStart]
    rfl

end Sys2Proof.Machine

open Sys2Proof Sys2Proof.Machine

/-- Settles O30: the step of the failed write, and what a transfer never touches (R203, R208). -/
theorem failedInitLeavesItsStep : Obligations.FailedInitLeavesItsStep := by
  intro cols rows font j s hr hd hj hk hf
  obtain ⟨u, hexec, k, hseq, -⟩ := init_fails hr hd hj hk hf cols rows font
  exact ⟨_, hexec, rfl, hseq, k.cols, k.rows, k.font, k.blOn, rfl⟩
end

section
/-! PROOFS. INIT when every call succeeds (O18): steps 0 to 8 play their events to the end, and step 9 sends the
last byte. -/

namespace Sys2Proof.Machine

/-! ### Events played to the end -/

/-- How many waits an event list makes. -/
def waits (ev : List Event) : Nat := (ev.filter Event.isDelay).length

theorem waits_append (ev ev' : List Event) : waits (ev ++ ev') = waits ev + waits ev' := by
  simp only [waits, List.filter_append, List.length_append]

theorem waits_initEvents (s : State) (rows : Byte) (font : Bool) : waits (initEvents s rows font) = 33 := rfl

/-- The events are made, and their answers used up. -/
def played (ev : List Event) (s : State) : State :=
  { takeAnswers (calls ev) s with dlIn := s.dlIn.drop (waits ev), trace := s.trace ++ ev }

theorem played_nil (s : State) : SameScript (played [] s) s := by
  constructor <;> simp [played, takeAnswers_eq, calls, waits]

theorem played_call {e : Event} (he : e.isCall = true) (r : List Event) (s : State) :
    SameScript (played (e :: r) s) (played r (called e s)) := by
  have hcalls : calls (e :: r) = calls r + 1 := by simp [calls, he]
  have hwaits : waits (e :: r) = waits r := by simp [waits, Event.isDelay_of_isCall he]
  constructor <;> simp [played, takeAnswers_eq, hcalls, hwaits, called, logged]
  case free => omega

theorem played_delay (n : Micros) (r : List Event) (s : State) :
    SameScript (played (.delay n :: r) s) (played r (waited n s)) := by
  have hcalls : calls (.delay n :: r) = calls r := rfl
  have hwaits : waits (.delay n :: r) = waits r + 1 := rfl
  constructor <;> simp [played, takeAnswers_eq, hcalls, hwaits, waited, logged]

/-- A flow all of whose calls succeed and whose waits end goes on, with its events made. -/
theorem Plays.completes {s : State} {ev : List Event} {f : Flow} (h : Plays s ev f)
    (hk : CallsSucceed (calls ev) s) (hd : DelaysEnd s) : ∃ u, f = .going u ∧ SameScript (played ev s) u := by
  induction h with
  | finished h => exact ⟨_, rfl, (played_nil _).trans h⟩
  | @answered s e r f he ha _ ih =>
    have hk' : CallsSucceed (calls r + 1) s := by simpa [calls, he] using hk
    obtain ⟨u, hu, hs⟩ := ih (hk'.called e) fun a h => hd a (by simpa using h)
    exact ⟨u, hu, (played_call he r s).trans hs⟩
  | failed he ha h => exact absurd (hk 0 (by simp [calls, he])) (by simp [ha, TpAnswer.isOk])
  | unanswered he ha hq h => exact absurd (hk 0 (by simp [calls, he])) (by simp [ha, TpAnswer.isOk])
  | @ended s n r f hh _ ih =>
    obtain ⟨u, hu, hs⟩ := ih (CallsSucceed.waited (by simpa [calls, Event.isCall] using hk) n) (hd.tail rfl)
    exact ⟨u, hu, (played_delay n r s).trans hs⟩
  | endless hh hq h => cases hd _ (List.mem_of_mem_head? hh)

/-! ### The steps up to the last byte -/

theorem seqRun_past {s : State} (h : ¬ s.seq ≤ 9#4) (n : Nat) : seqRun n s = .going s := by
  cases n with
  | zero => rfl
  | succ n => rw [seqRun, if_neg h]

theorem seqRun_add (m n : Nat) (s : State) : seqRun (m + n) s = (seqRun m s).andThen (seqRun n) := by
  induction m generalizing s with
  | zero => rw [Nat.zero_add]; rfl
  | succ m ih =>
    rw [Nat.succ_add, seqRun, seqRun]
    split_ifs with h
    · simp only [Flow.andThen_assoc, ih]
    · exact (seqRun_past h n).symm

/-- Each round of the sequencer that completes is one step on (R201). -/
theorem seqRun_going_toNat {n : Nat} {s t : State} (hn : n + s.seq.toNat ≤ 10) (h : seqRun n s = .going t) :
    t.seq.toNat = n + s.seq.toNat := by
  induction n generalizing s with
  | zero => cases h; exact (Nat.zero_add _).symm
  | succ n ih =>
    have h9 : s.seq ≤ 9#4 := show s.seq.toNat ≤ 9 by omega
    rw [seqRun, if_pos h9] at h
    obtain ⟨u, hu, hrun⟩ := Flow.andThen_eq_going.1 h
    have hq : u.seq = s.seq := Flow.rel_going hu (SameSeq.acrossTransfers.seqAction s)
    have hnext : (seqAdvance u).seq.toNat = s.seq.toNat + 1 := by rw [seqAdvance_seq, hq, nextSeq_toNat h9]
    rw [ih (by omega) hrun, hnext]
    omega

/-- The last of the events of INIT are those of step 9 (R204). -/
theorem initEvents_eq_append (s : State) :
    initEvents s s.a1 (s.a2.getLsbD 0) = seqEvents 9 (initStart s) ++ byteEvents s false 0x0C#8 := by
  rw [← seqEvents_initStart]
  simp [seqEvents, seqStepEvents, seqRowEvents, seqRow, nextSeq, kDisplayOnRow, sendEvents]
  rfl

/-- A byte written, all its calls answered ok: after both phases (R68, R179). -/
def byteWritten (v : Byte) (s : State) : State :=
  phaseWritten (lowNibble v) .done (phaseWritten (highNibble v) .assembleLow (xferStart false false v true s))

/-- Step 9 when every call succeeds (R204). -/
theorem seqRun_displayOn {s : State} (hq : s.seq = 9#4) (hp : PinMap.IsPerm s.pm) (hm : Memory.wf s.bus = true)
    (hk : CallsSucceed 4 s) (hd : DelaysEnd s) : seqRun 1 s = .going (seqAdvance (byteWritten 0x0C#8 s)) := by
  have hrow : seqRow s = some kDisplayOnRow := by simp [seqRow, hq]
  have haction : seqAction s = .going (byteWritten 0x0C#8 s) := by
    simp only [seqAction, hrow, seqSend]
    exact congrArg (Flow.andThen · (ownDelay none)) (xfer_byte hp hm hk hd false 0x0C#8)
  rw [seqRun, if_pos (by simp [hq]), haction]
  rfl

theorem seqEvents_nine_counts (s : State) :
    calls (seqEvents 9 (initStart s)) = 24 ∧ waits (seqEvents 9 (initStart s)) = 29 := by
  have hcalls := congrArg calls (initEvents_eq_append s)
  have hwaits := congrArg waits (initEvents_eq_append s)
  rw [calls_append, calls_initEvents, show calls (byteEvents s false 0x0C#8) = 4 from rfl] at hcalls
  rw [waits_append, waits_initEvents, show waits (byteEvents s false 0x0C#8) = 4 from rfl] at hwaits
  omega

/-- What steps 0 to 8 leave when every call succeeds: step 9 is next, with 24 answers and 29 waits used up, and the
controller is at the start of a byte (R206, R207). -/
structure BeforeDisplayOn (s u : State) : Prop where
  kept : Kept (initStart s) u
  seq : u.seq = 9#4
  reads : SameReads s u
  ctl : u.ctl = .expectsHigh
  tpIn : u.tpIn = s.tpIn.drop 24
  free : u.free = s.free + (24 - s.tpIn.length)
  dlIn : u.dlIn = s.dlIn.drop 29
  trace : u.trace = s.trace ++ seqEvents 9 (initStart s)

theorem seqRun_nine_completes {s : State} (hp : PinMap.IsPerm s.pm) (hm : Memory.wf s.bus = true)
    (hk : CallsSucceed 28 s) (hd : DelaysEnd s) :
    ∃ u, seqRun 9 (initStart s) = .going u ∧ BeforeDisplayOn s u := by
  obtain ⟨hcalls, hwaits⟩ := seqEvents_nine_counts s
  obtain ⟨u, hu, hs⟩ := (plays_seqRun (s := initStart s) hp 9).completes
    (by rw [hcalls]; exact CallsSucceed.later 0 (fun k hk' => hk k (by omega)) rfl (by simp)) hd
  have hseq : u.seq.toNat = 9 := seqRun_going_toNat (s := initStart s) (Nat.le_succ 9) hu
  have hset : SetUp u := SetUp.seqRun (s := initStart s) hp hm
    ⟨fun h5 => absurd h5 (by simp), fun h6 => absurd h6 (by simp)⟩ hu
  refine ⟨u, hu, Flow.rel_going hu (Kept.seqRun 9 _), BitVec.eq_of_toNat_eq hseq,
    Flow.rel_going (R := SameReads) hu (SameReads.seqRun 9 (initStart s)), hset.ctl ?_, ?_, ?_, ?_, hs.trace⟩
  · exact (by omega : 5 ≤ u.seq.toNat)
  · rw [hs.tpIn, played, hcalls, takeAnswers_eq]; rfl
  · rw [hs.free, played, hcalls, takeAnswers_eq]; rfl
  · rw [hs.dlIn, played, hwaits]; rfl

/-! ### INIT -/

/-- A write leaves the same memory, whatever the address held before. -/
theorem Memory.write_congr {m m' : Memory} {a : Nat} (v : Byte) (h : Memory.wf m = true) (h' : Memory.wf m' = true)
    (hr : ∀ b, b ≠ a → Memory.read m b = Memory.read m' b) : Memory.write m a v = Memory.write m' a v := by
  refine Memory.ext (Memory.wf_write _ _ h) (Memory.wf_write _ _ h') fun b => ?_
  by_cases hb : b = a
  · subst hb
    rw [Memory.read_write_same _ _ h, Memory.read_write_same _ _ h']
  · rw [Memory.read_write_other _ hb, Memory.read_write_other _ hb, hr b hb]

/-- INIT after the map check: step 9 from where steps 0 to 8 have come to, then step 10. -/
theorem initBody_completes {s : State} (hp : PinMap.IsPerm s.pm) (hm : Memory.wf s.bus = true)
    (hk : CallsSucceed 28 s) (hd : DelaysEnd s) :
    ∃ u, BeforeDisplayOn s u ∧ initBody s = initFinish (seqAdvance (byteWritten 0x0C#8 u)) := by
  obtain ⟨u, hu, h⟩ := seqRun_nine_completes hp hm hk hd
  have hlast := seqRun_displayOn h.seq (by rw [h.kept.pm]; exact hp) (h.kept.canonical hm)
    (hk.later 24 h.tpIn h.free) (hd.drop 29 h.dlIn)
  refine ⟨u, h, ?_⟩
  rw [initBody, show 10 = 9 + 1 from rfl, seqRun_add, hu, Flow.going_andThen, hlast]
  rfl

end Sys2Proof.Machine

open Sys2Proof Sys2Proof.Machine

/-- Settles O18: what step 9 and step 10 write, and what the steps before them have left. -/
theorem initRunsTheWholeSequence : Obligations.InitRunsTheWholeSequence := by
  intro cols rows font s hr hk hd
  have hp := hr.inv.mapIsPerm hr.map
  have hm := hr.inv.busCanonical
  obtain ⟨hnpd, hreq⟩ := hr.inv.idleAtRest hr.idle
  obtain ⟨u, h, hbody⟩ :=
    initBody_completes (s := accept opInit cols rows font s) hp hm (hk.later 0 rfl (by simp)) hd
  have k := h.kept
  obtain ⟨hhi, hlo⟩ := h.reads
  have hword : encWord u false false false 0xC#4 = encWord s false false false 0xC#4 :=
    encWord_congr k.pm k.blOn k.blPol false false false 0xC#4
  have hbyte : byteEvents u false 0x0C#8 = byteEvents s false 0x0C#8 :=
    byteEvents_congr k.prm k.pm k.blOn k.blPol false 0x0C#8
  have hev : initEvents s rows (font.getLsbD 0) = _ ++ byteEvents s false 0x0C#8 :=
    initEvents_eq_append (accept opInit cols rows font s)
  refine congrArg Host.Outcome.next (((checked_valid _ (by exact hr.map)).trans hbody).trans ?_)
  rw [hev, ← hbyte]
  apply State.ext <;>
    simp [initFinish, initFlags, seqAdvance, byteWritten, takeAnswers_eq, k.prm, k.pm, k.mapValid, k.blPol,
      k.devAddr, k.op, k.a0, k.a1, k.a2, k.cols, k.rows, k.font, k.blOn, k.hostIn, k.layerOut, h.seq, h.tpIn, h.free,
      h.dlIn, h.trace, h.ctl, hhi, hlo, hnpd, hreq, hr.idle, byteEvents]
  case op | font | seq | trace => rfl
  case word => exact hword
  case bus =>
    rw [Memory.write_write _ _ _ (k.canonical hm), ← hword]
    exact Memory.write_congr _ (k.canonical hm) hm k.bus
  case free => omega
end

section
/-! PROOFS. The events of INIT (O49): how many of each kind, the words, the nibbles latched and the waits, and how
many writes are left of them where one fails. -/

namespace Sys2Proof.Machine

open Expect

/-! ### Writes -/

/-- Where no event is a read, the calls are the writes. -/
theorem writes_length_eq_calls {ev : List Event} (h : Event.read ∉ ev) :
    (ev.filter Event.isWrite).length = calls ev := by
  refine congrArg List.length (List.filter_congr fun e he => ?_)
  cases e
  case read => exact absurd he h
  all_goals rfl

theorem cutAt_prefix (kind : Event → Bool) (j : Nat) (ev : List Event) : cutAt kind j ev <+: ev := by
  induction ev generalizing j with
  | nil => cases j <;> exact List.prefix_rfl
  | cons e r ih =>
    unfold cutAt
    split_ifs
    · cases j with
      | zero => exact ⟨r, rfl⟩
      | succ j => exact (List.prefix_cons_inj e).2 (ih j)
    · exact (List.prefix_cons_inj e).2 (ih j)

theorem read_notMem_initEvents (s : State) (rows : Byte) (font : Bool) : Event.read ∉ initEvents s rows font := by
  simp [initEvents, byteEvents, nibbleEvents]

/-- INIT cut off at write number `j` has made `j + 1` writes, after the power-on wait (R209). -/
theorem initEvents_cutAtCall {j : Nat} (hj : j < 28) (s : State) (rows : Byte) (font : Bool) :
    ((cutAtCall j (initEvents s rows font)).filter Event.isWrite).length = j + 1 ∧
      (cutAtCall j (initEvents s rows font)).head? = some (.delay s.prm.tPowerOn) := by
  refine ⟨?_, rfl⟩
  rw [writes_length_eq_calls fun hm => read_notMem_initEvents s rows font ((cutAt_prefix _ _ _).subset hm),
    calls_cutAtCall hj]

/-! ### The words -/

/-- The backlight stands at this level in every word an event list writes. -/
def BacklightThroughout (pm : PinMap) (level : Bool) (ev : List Event) : Prop :=
  ∀ w : Byte, Event.write w ∈ ev → atSlot pm w slotBL = level

theorem backlightThroughout_append {pm : PinMap} {level : Bool} {ev ev' : List Event} :
    BacklightThroughout pm level (ev ++ ev') ↔
      BacklightThroughout pm level ev ∧ BacklightThroughout pm level ev' := by
  simp only [BacklightThroughout, List.mem_append, or_imp, forall_and]

theorem backlightThroughout_delay (pm : PinMap) (level : Bool) (n : Micros) :
    BacklightThroughout pm level [.delay n] := by simp [BacklightThroughout]

theorem mem_writtenWords {w : Byte} {ev : List Event} : w ∈ writtenWords ev ↔ Event.write w ∈ ev := by
  rw [writtenWords, List.mem_filterMap]
  constructor
  · rintro ⟨e, he, hw⟩
    cases e <;> cases hw
    exact he
  · exact fun h => ⟨_, h, rfl⟩

section
variable {s : State} (hp : PinMap.IsPerm s.pm)
include hp

/-- R264: an encoded word carries the backlight's level at its port. -/
theorem atSlot_encWord_backlight (rs rw e : Bool) (n : Nibble) :
    atSlot s.pm (encWord s rs rw e n) slotBL = backlightLevel s := by
  obtain ⟨-, -, -, -, hbl⟩ := fields_of_append rs rw e (backlightLevel s) n
  rw [← log_encWord s hp] at hbl
  exact (log_getLsbD _ _ slotBL).symm.trans hbl

theorem backlightThroughout_nibbleEvents (rs : Bool) (n : Nibble) :
    BacklightThroughout s.pm (backlightLevel s) (nibbleEvents s rs n) := by
  simp [BacklightThroughout, nibbleEvents, atSlot_encWord_backlight hp]

theorem backlightThroughout_byteEvents (rs : Bool) (v : Byte) :
    BacklightThroughout s.pm (backlightLevel s) (byteEvents s rs v) :=
  backlightThroughout_append.2
    ⟨backlightThroughout_nibbleEvents hp rs _, backlightThroughout_nibbleEvents hp rs _⟩

theorem backlightThroughout_initEvents (rows : Byte) (font : Bool) :
    BacklightThroughout s.pm (backlightLevel s) (initEvents s rows font) := by
  simp only [initEvents, backlightThroughout_append, backlightThroughout_nibbleEvents hp,
    backlightThroughout_byteEvents hp, backlightThroughout_delay, and_self]

end

/-! ### The nibbles latched -/

/-- The halves of the function set byte (R205). -/
theorem funcsetByte_nibbles (rows : Byte) (font : Bool) :
    highNibble (funcsetByte (twoLines rows) (effectiveFont font rows)) = 2#4 ∧
      lowNibble (funcsetByte (twoLines rows) (effectiveFont font rows)) =
        if 2#8 ≤ rows then 8#4 else if font then 4#4 else 0#4 := by
  rcases rows_le_one_or_two_le rows with h | h
  · have h2 : ¬ 2#8 ≤ rows := fun h2 => absurd (Nat.le_trans h2 h) (by decide)
    rw [funcsetByte_oneRow h, if_neg h2]
    cases font <;> decide
  · rw [funcsetByte_twoRows h, if_pos h]
    decide

theorem enableLowNibbles_append (pm : PinMap) (ev ev' : List Event) :
    enableLowNibbles pm (ev ++ ev') = enableLowNibbles pm ev ++ enableLowNibbles pm ev' := List.filterMap_append

theorem enableLowNibbles_delay (pm : PinMap) (n : Micros) : enableLowNibbles pm [.delay n] = [] := rfl

section
variable {s : State} (hp : PinMap.IsPerm s.pm)
include hp

/-- The one word of a nibble with enable low carries that nibble (R179). -/
theorem enableLowNibbles_nibbleEvents (rs : Bool) (n : Nibble) :
    enableLowNibbles s.pm (nibbleEvents s rs n) = [n] := by
  have hn : (log s.pm (encWord s rs false false n)).extractLsb' 1 4 = n := by
    rw [log_encWord s hp]
    exact (fields_of_append rs false false (backlightLevel s) n).1
  simp [enableLowNibbles, nibbleEvents, atSlot_encWord_enable s hp, hn]

theorem enableLowNibbles_byteEvents (rs : Bool) (v : Byte) :
    enableLowNibbles s.pm (byteEvents s rs v) = [highNibble v, lowNibble v] := by
  rw [byteEvents, enableLowNibbles_append, enableLowNibbles_nibbleEvents hp, enableLowNibbles_nibbleEvents hp]
  rfl

/-- The fourteen nibbles of INIT (R213 d). -/
theorem enableLowNibbles_initEvents (rows : Byte) (font : Bool) :
    enableLowNibbles s.pm (initEvents s rows font) =
      [3#4, 3#4, 3#4, 2#4, 2#4, if 2#8 ≤ rows then 8#4 else if font then 4#4 else 0#4,
        0#4, 8#4, 0#4, 1#4, 0#4, 6#4, 0#4, 0xC#4] := by
  obtain ⟨hhigh, hlow⟩ := funcsetByte_nibbles rows font
  simp only [initEvents, enableLowNibbles_append, enableLowNibbles_nibbleEvents hp, enableLowNibbles_byteEvents hp,
    enableLowNibbles_delay, hhigh, hlow]
  rfl

end

/-! ### The waits -/

/-- The waits of an event list, in microseconds (R207). -/
def waitSum (ev : List Event) : Nat := (ev.map Event.wait).sum

theorem waitSum_append (ev ev' : List Event) : waitSum (ev ++ ev') = waitSum ev + waitSum ev' := by
  simp only [waitSum, List.map_append, List.sum_append]

theorem waitSum_delay (n : Micros) : waitSum [.delay n] = n.toNat := rfl

theorem waitSum_nibbleEvents (s : State) (rs : Bool) (n : Nibble) :
    waitSum (nibbleEvents s rs n) = s.prm.tPulse.toNat + s.prm.tSettle.toNat := by
  simp [waitSum, nibbleEvents, Event.wait]

theorem waitSum_initEvents (s : State) (rows : Byte) (font : Bool) :
    waitSum (initEvents s rows font) =
      s.prm.tPowerOn.toNat + s.prm.tProbe1.toNat + s.prm.tProbe2.toNat +
        s.prm.tProbe3.toNat + s.prm.tClear.toNat + 14 * s.prm.tPulse.toNat + 14 * s.prm.tSettle.toNat := by
  simp only [initEvents, byteEvents, waitSum_append, waitSum_nibbleEvents, waitSum_delay]
  omega

end Sys2Proof.Machine

open Sys2Proof Sys2Proof.Machine

/-- Settles O49: what INIT appends when every call succeeds (O18), and up to a failed one. -/
theorem initEventsCountAndNibbles : Obligations.InitEventsCountAndNibbles := by
  intro cols rows font s hr hd
  have hp := hr.inv.mapIsPerm hr.map
  refine ⟨fun hk => ?_, fun j hj hk hf => ?_⟩
  · have hread := read_notMem_initEvents s rows (font.getLsbD 0)
    refine ⟨_, initEvents s rows (font.getLsbD 0), initRunsTheWholeSequence cols rows font s hr hk hd, rfl,
      (writes_length_eq_calls hread).trans (calls_initEvents _ _ _), hread, waits_initEvents _ _ _, rfl,
      fun w hw => ?_, enableLowNibbles_initEvents hp _ _, waitSum_initEvents _ _ _, rfl⟩
    have hw := mem_writtenWords.1 hw
    obtain ⟨hrs, hrw, -⟩ := linesThroughout_initEvents hp _ _ w hw
    exact ⟨hrs, hrw, (backlightThroughout_initEvents hp _ _ w hw).trans (backlightLevel_eq_xor s)⟩
  · obtain ⟨u, hexec, -, -, htr⟩ := init_fails hr hd hj hk hf cols rows font
    obtain ⟨hwrites, hhead⟩ := initEvents_cutAtCall hj s rows (font.getLsbD 0)
    exact ⟨_, _, hexec, congrArg (· ++ [Event.rsp .transportError 0#8]) htr, hwrites, hhead, rfl⟩
end

section
/-! PROOFS. RDBF and RDAC: one read transfer, then a response made of the data lines of the words read alone. What
they answer when every call succeeds (O20, O21), and so the round trip (O22) and the ports that do not count (O51). -/

namespace Sys2Proof.Machine

/-! ### The response, from the data lines -/

/-- The four data lines of a word read, D7 first (R90, R232). -/
abbrev dataLines (pm : PinMap) (w : Byte) : Nibble := (log pm w).extractLsb' 1 4

/-- The response of RDBF, from the data lines of the first word read (R103, R234). -/
def busyFlagData (hi : Nibble) : Byte := if hi.getLsbD 3 then 1#8 else 0#8

/-- The response of RDAC, from the data lines of the two words read (R102, R236). -/
def counterData (hi lo : Nibble) : Byte := 0#1 ++ hi.extractLsb' 0 3 ++ lo

theorem busyFlagData_dataLines (pm : PinMap) (w : Byte) :
    busyFlagData (dataLines pm w) = if (log pm w).getLsbD 4 then 1#8 else 0#8 := by
  simp [busyFlagData]

theorem counterData_dataLines (pm : PinMap) (hi lo : Byte) :
    counterData (dataLines pm hi) (dataLines pm lo) =
      0#1 ++ (log pm hi).extractLsb' 1 3 ++ (log pm lo).extractLsb' 1 4 := by
  have hlines : (dataLines pm hi).extractLsb' 0 3 = (log pm hi).extractLsb' 1 3 := by
    apply BitVec.eq_of_getLsbD_eq
    intro i hlt
    have hlt4 : i < 4 := by omega
    simp [hlt, hlt4]
  rw [counterData, hlines]

/-- R238: the lines `{f, x}` give the flag back. -/
theorem busyFlagData_append : ∀ (f : Bool) (x : BitVec 3),
    busyFlagData (BitVec.ofBool f ++ x) = 0#7 ++ BitVec.ofBool f := by decide

/-- R238: the lines `{f, a[6:4]}` and `a[3:0]` give the counter back. -/
theorem counterData_append : ∀ (f : Bool) (a : BitVec 7),
    counterData (BitVec.ofBool f ++ a.extractLsb' 4 3) (a.extractLsb' 0 4) = 0#1 ++ a := by decide

theorem busyFlag_eq_data (s : State) :
    0#7 ++ BitVec.ofBool (busyFlag s) = busyFlagData (dataLines s.pm s.rdHi) := by
  have hflag : busyFlag s = (log s.pm s.rdHi).getLsbD 4 := (log_getLsbD s.pm s.rdHi slotD7).symm
  rw [busyFlagData_dataLines, hflag]
  cases (log s.pm s.rdHi).getLsbD 4 <;> rfl

theorem addressCounter_eq_data (s : State) :
    0#1 ++ addressCounter s = counterData (dataLines s.pm s.rdHi) (dataLines s.pm s.rdLo) := by
  rw [counterData_dataLines, addressCounter_eq, BitVec.append_assoc, BitVec.cast_eq]

/-! ### The two operations -/

/-- What both do after the map check: a read transfer, then a response made of the data lines of the two latches. -/
def readBody (data : Nibble → Nibble → Byte) (len : Bool) (s : State) : State :=
  ((readXfer len s).andThen fun t =>
    .going (respond .ok (data (dataLines t.pm t.rdHi) (dataLines t.pm t.rdLo)) t)).settle (raise .transportError)

theorem rdbfBody_eq_readBody (s : State) :
    rdbfBody s = readBody (fun hi _ => busyFlagData hi) s.prm.bfFullCycle s := by
  simp only [rdbfBody, respondBusyFlag, busyFlag_eq_data, readBody]

theorem rdacBody_eq_readBody (s : State) : rdacBody s = readBody counterData true s := by
  simp only [rdacBody, respondAddressCounter, addressCounter_eq_data, readBody]

section
variable {s : State} (hr : Ready s) (hd : DelaysEnd s)
include hr hd

/-- The read transfer of an accepted command, of one phase or two, every call answered ok. -/
theorem readXfer_accepted {len : Bool} (hk : CallsSucceed (if len then 6 else 3) s) (op : BitVec 4) (a0 a1 a2 : Byte) :
    readXfer len (accept op a0 a1 a2 s) =
      .going { Expect.readDone op a0 a1 a2 len s with top := .busy, rspValid := false } := by
  have hp := hr.inv.mapIsPerm hr.map
  have hm := hr.inv.busCanonical
  obtain ⟨hnpd, hreq⟩ := hr.inv.idleAtRest hr.idle
  cases len with
  | false =>
    rw [readXfer_one (s := accept op a0 a1 a2 s) hp hm (hk.later 0 rfl (by simp)) hd]
    refine congrArg Flow.going ?_
    apply State.ext <;> simp [Expect.readDone, takeAnswers_eq, hnpd, hreq]
    case rdHi => exact highRead_congr rfl rfl rfl
    case trace => rfl
  | true =>
    rw [readXfer_two (s := accept op a0 a1 a2 s) hp hm (hk.later 0 rfl (by simp)) hd]
    refine congrArg Flow.going ?_
    apply State.ext <;> simp [Expect.readDone, takeAnswers_eq, hnpd, hreq]
    case rdHi => exact highRead_congr rfl rfl rfl
    case rdLo => exact lowRead_congr rfl rfl rfl
    case bus => exact Memory.write_write _ _ _ hm
    case trace => rfl
    case free => omega

/-- An accepted read operation whose calls all succeed. -/
theorem accepted_readBody {len : Bool} (hk : CallsSucceed (if len then 6 else 3) s) (op : BitVec 4) (a0 a1 a2 : Byte)
    (data : Nibble → Nibble → Byte) :
    readBody data len (accept op a0 a1 a2 s) =
      Expect.readAnswered
        (data (dataLines s.pm (highRead s)) (dataLines s.pm (if len then lowRead s else s.rdLo)))
        (Expect.readDone op a0 a1 a2 len s) := by
  rw [readBody, readXfer_accepted hr hd hk, Flow.going_andThen, Flow.going_settle]
  apply State.ext <;> simp [Expect.readAnswered, Expect.readDone, takeAnswers_eq, hr.idle]

/-- RDBF responds with the busy flag on the data lines of the first word read (R234). -/
theorem exec_rdbf_ok (hk : CallsSucceed (if s.prm.bfFullCycle then 6 else 3) s) (a0 a1 a2 : Byte) :
    exec (.rdbf a0 a1 a2) s = .next
      (Expect.readAnswered (busyFlagData (dataLines s.pm (highRead s)))
        (Expect.readDone opRdbf a0 a1 a2 s.prm.bfFullCycle s)) := by
  change Host.Outcome.next (checked rdbfBody (accept opRdbf a0 a1 a2 s)) = _
  rw [checked_valid _ (by exact hr.map), rdbfBody_eq_readBody, accept_prm, accepted_readBody hr hd hk]

/-- RDAC responds with the counter on the data lines of the two words read (R236). -/
theorem exec_rdac_ok (hk : CallsSucceed 6 s) (a0 a1 a2 : Byte) :
    exec (.rdac a0 a1 a2) s = .next
      (Expect.readAnswered (counterData (dataLines s.pm (highRead s)) (dataLines s.pm (lowRead s)))
        (Expect.readDone opRdac a0 a1 a2 true s)) := by
  change Host.Outcome.next (checked rdacBody (accept opRdac a0 a1 a2 s)) = _
  rw [checked_valid _ (by exact hr.map), rdacBody_eq_readBody, accepted_readBody (len := true) hr hd hk]
  rfl

end

/-- Six calls that succeed are enough for RDBF, full cycle or not (R235). -/
theorem callsSucceed_of_six {s : State} (hk : CallsSucceed 6 s) (full : Bool) :
    CallsSucceed (if full then 6 else 3) s :=
  fun k hlt => hk k (by split_ifs at hlt <;> omega)

/-- The answered state is idle again, with `STATUS` OK and the byte in `RDATA`. -/
theorem readAnswered_readDone_response {s : State} (hr : Ready s) (d : Byte) (op : BitVec 4) (a0 a1 a2 : Byte)
    (len : Bool) :
    let t := Expect.readAnswered d (Expect.readDone op a0 a1 a2 len s)
    t.top = .idle ∧ t.status = .ok ∧ t.rdata = d := by
  simp [Expect.readAnswered, Expect.readDone, takeAnswers_eq, hr.idle]

end Sys2Proof.Machine

open Sys2Proof Sys2Proof.Machine

/-- Settles O20: D7 is the first of the data lines. -/
theorem rdbfAnswersTheBusyFlag : Obligations.RdbfAnswersTheBusyFlag := by
  intro a0 a1 a2 s hr hk hd
  rw [exec_rdbf_ok hr hd hk, busyFlagData_dataLines]
  rfl

/-- Settles O21: the counter is the lower three data lines of the first word and the four of the second. -/
theorem rdacAnswersTheAddressCounter : Obligations.RdacAnswersTheAddressCounter := by
  intro a0 a1 a2 s hr hk hd
  rw [exec_rdac_ok hr hd hk, counterData_dataLines]
  rfl

/-- Settles O22: the responses are made of the data lines, and relocation carries these there and back (O7). -/
theorem readsReverseTheEncoding : Obligations.ReadsReverseTheEncoding := by
  intro a f x y z n b0 b1 b2 s hr hd hhi
  refine ⟨fun hk hlo => ⟨_, exec_rdac_ok hr hd hk b0 b1 b2, ?_⟩,
    fun hk => ⟨_, exec_rdbf_ok hr hd hk b0 b1 b2, ?_⟩, ?_⟩
  · rw [dataLines, dataLines, hhi, hlo, counterData_append]
    exact readAnswered_readDone_response hr ..
  · rw [dataLines, hhi, busyFlagData_append]
    exact readAnswered_readDone_response hr ..
  · rw [log_phys (hr.inv.mapIsPerm hr.map)]
    exact (fields_of_append x y z false n).1

/-- Settles O51: the data lines are all that the response is made of. -/
theorem readsIgnoreTheOtherPorts : Obligations.ReadsIgnoreTheOtherPorts := by
  rintro a0 a1 a2 i s s' t t' (rfl | rfl) hr hr' hpm - hk hk' hd hd' hhi hlo ht ht'
  · rw [exec_rdbf_ok hr hd (callsSucceed_of_six hk _)] at ht
    rw [exec_rdbf_ok hr' hd' (callsSucceed_of_six hk' _), ← hpm, dataLines, ← hhi] at ht'
    cases ht
    cases ht'
    exact ⟨rfl, rfl⟩
  · rw [exec_rdac_ok hr hd hk] at ht
    rw [exec_rdac_ok hr' hd' hk', ← hpm, dataLines, dataLines, ← hhi, ← hlo] at ht'
    cases ht
    cases ht'
    exact ⟨rfl, rfl⟩
end

section
/-! PROOFS. The frame of RDBF and RDAC, whatever the collaborators answer (O37). -/

namespace Sys2Proof.Machine

/-- The state with everything blanked that a read operation may write: what CMD and DATA may, and the read latches
(R234, R236). -/
def readFrame (s : State) : State := { byteFrame s with rdHi := 0#8, rdLo := 0#8 }

theorem readFrame_xfer (rs rw : Bool) (v : Byte) (len : Bool) (s : State) :
    readFrame (xfer rs rw v len s).state = readFrame s := by
  have k := Kept.xfer rs rw v len s
  have hseq : (xfer rs rw v len s).state.seq = s.seq := SameSeq.acrossTransfers.xfer rs rw v len s
  simp only [readFrame, byteFrame, k.prm, k.pm, k.mapValid, k.blPol, k.devAddr, k.cols, k.rows, k.font, k.dispOn,
    k.curOn, k.blinkOn, k.entryLtr, k.autoscroll, k.blOn, k.initOk, k.hostIn, k.layerOut, hseq]

/-- States with the same frame differ in what a read operation may write alone. -/
theorem eq_of_readFrame_eq {s t : State} (h : readFrame t = readFrame s) :
    t = { s with
      op := t.op, a0 := t.a0, a1 := t.a1, a2 := t.a2, val := t.val, rs := t.rs, rw := t.rw,
      len := t.len, word := t.word, rdHi := t.rdHi, rdLo := t.rdLo, status := t.status,
      rdata := t.rdata, top := t.top, npd := t.npd, rspValid := t.rspValid, req := t.req,
      bus := t.bus, ctl := t.ctl, tpIn := t.tpIn, dlIn := t.dlIn, trace := t.trace,
      free := t.free } := by
  cases s
  cases t
  simpa [readFrame, byteFrame] using h

theorem readBody_framed (data : Nibble → Nibble → Byte) (len : Bool) (s : State) :
    FramedBy readFrame s (readBody data len s) :=
  FramedBy.settle ⟨readFrame_xfer false true 0xFF#8 len s, (Kept.xfer false true 0xFF#8 len s).bus⟩
    (fun _ => ⟨rfl, rfl⟩) fun _ => ⟨rfl, rfl⟩

/-- The frame of an accepted read operation, and the latches of the other devices on the bus. -/
theorem frame_of_accepted_read {body : State → State} (hbody : ∀ u, FramedBy readFrame u (body u)) (op : BitVec 4)
    (a0 a1 a2 : Byte) {s t : State} (ht : t = checked body (accept op a0 a1 a2 s)) :
    readFrame t = readFrame s ∧ (s.mapValid = false → t.bus = s.bus) ∧
      ∀ a : Nat, a ≠ s.devAddr.toNat → Memory.read t.bus a = Memory.read s.bus a := by
  obtain ⟨⟨hframe, hbus⟩, hinvalid⟩ := (hbody (accept op a0 a1 a2 s)).checked fun _ => rfl
  exact ht ▸ ⟨hframe, hinvalid, hbus⟩

end Sys2Proof.Machine

open Sys2Proof Sys2Proof.Machine

/-- Settles O37: both are an accepted read. -/
theorem frameOfReads : Obligations.FrameOfReads := by
  have hbf (u : State) : FramedBy readFrame u (rdbfBody u) := rdbfBody_eq_readBody u ▸ readBody_framed _ _ u
  have hac (u : State) : FramedBy readFrame u (rdacBody u) := rdacBody_eq_readBody u ▸ readBody_framed _ _ u
  rintro a0 a1 a2 i s t (rfl | rfl) ht <;> injection ht with ht
  · exact (frame_of_accepted_read hbf _ a0 a1 a2 ht.symm).imp_left eq_of_readFrame_eq
  · exact (frame_of_accepted_read hac _ a0 a1 a2 ht.symm).imp_left eq_of_readFrame_eq
end

section
/-! PROOFS. The backlight-only word (O9), and BACKLIGHT by the answer to its one write (O19, O31). -/

namespace Sys2Proof.Machine

/-- A backlight-only word has enable low, so the edge depends on the latch alone (R263). -/
theorem enableFalls_blMask {s : State} (hp : PinMap.IsPerm s.pm) (on : Bool) (before : Byte) :
    enableFalls s.pm before (blMask { s with blOn := on }) = atSlot s.pm before slotE := by
  have hlow : atSlot s.pm (blMask { s with blOn := on }) slotE = false :=
    (atSlot_blMask { s with blOn := on } hp slotE).trans (by simp [slotE, slotBL])
  rw [enableFalls, hlow, Bool.not_false, Bool.and_true]

theorem backlightBody_ok {s : State} (h : (transportAnswer s).isOk = true) (hd : DelaysEnd s) :
    backlightBody s = respond .ok 0#8 (wrote s.prm.tSettle (backlightWord s)) := by
  rw [backlightBody, write_then_delay (s := backlightWord s) _ h hd]
  rfl

theorem backlightBody_fail {s : State} (h : transportAnswer s = .fail) :
    backlightBody s = raise .transportError (maybeLandWord (requestDone (issueWrite (backlightWord s)))) := by
  rw [backlightBody, write_fails (s := backlightWord s) _ h]
  rfl

theorem exec_backlight_valid {s : State} (hm : s.mapValid = true) (on a1 a2 : Byte) :
    exec (.backlight on a1 a2) s = .next (backlightBody (accept opBacklight on a1 a2 s)) :=
  congrArg Host.Outcome.next (checked_valid _ (by exact hm))

end Sys2Proof.Machine

open Sys2Proof Sys2Proof.Machine

/-- Settles O9: the mask is one bit at the backlight port. -/
theorem backlightMaskIsItsLevelAtItsPort : Obligations.BacklightMaskIsItsLevelAtItsPort := by
  intro s k
  rw [blMask, portBit_getLsbD, backlightLevel_eq_xor, decide_eq_decide.2 eq_comm]

/-- Settles O19: the write answered, the wait, the response. -/
theorem backlightWritesItsWord : Obligations.BacklightWritesItsWord := by
  intro on a1 a2 s hr hk hd w
  have hword : (backlightWord (accept opBacklight on a1 a2 s)).word = w := rfl
  have hedge (before : Byte) : enableFalls s.pm before w = atSlot s.pm before slotE :=
    enableFalls_blMask (hr.inv.mapIsPerm hr.map) _ before
  clear_value w
  obtain ⟨hnpd, hreq⟩ := hr.inv.idleAtRest hr.idle
  rw [exec_backlight_valid hr.map, backlightBody_ok (s := accept opBacklight on a1 a2 s) (hk 0 Nat.one_pos) hd]
  refine congrArg Host.Outcome.next ?_
  apply State.ext <;>
    simp [takeAnswers_eq, hnpd, hreq, hr.idle, hword, hedge, -backlightWord_word]
  case op => rfl

/-- Settles O31: a failed write ends the operation after `BL_ON` and `WORD` are written, before the wait. -/
theorem failedBacklightKeepsTheRequest : Obligations.FailedBacklightKeepsTheRequest := by
  intro on a1 a2 s hr hf
  have hword : (backlightWord (accept opBacklight on a1 a2 s)).word = blMask { s with blOn := on.getLsbD 0 } := rfl
  refine ⟨_, (exec_backlight_valid hr.map on a1 a2).trans
    (congrArg Host.Outcome.next (backlightBody_fail (s := accept opBacklight on a1 a2 s) hf)), ?_⟩
  simp [hword, -backlightWord_word]
end

section
/-! PROOFS. The frame of BACKLIGHT, whatever the collaborators answer (O38): one write and one wait. -/

namespace Sys2Proof.Machine

/-- The state with everything blanked that BACKLIGHT may write (R263). -/
def backlightFrame (s : State) : State :=
  { s with
    op := 0#4, a0 := 0#8, a1 := 0#8, a2 := 0#8, blOn := false, word := 0#8, status := .ok, rdata := 0#8,
    top := .idle, npd := .done, rspValid := false, req := .none, bus := [], ctl := .unknown, tpIn := [],
    dlIn := [], trace := [], free := 0 }

/-- States with the same frame differ in what BACKLIGHT may write alone. -/
theorem eq_of_backlightFrame_eq {s t : State} (h : backlightFrame t = backlightFrame s) :
    t = { s with
      op := t.op, a0 := t.a0, a1 := t.a1, a2 := t.a2, blOn := t.blOn, word := t.word,
      status := t.status, rdata := t.rdata, top := t.top, npd := t.npd, rspValid := t.rspValid,
      req := t.req, bus := t.bus, ctl := t.ctl, tpIn := t.tpIn, dlIn := t.dlIn, trace := t.trace,
      free := t.free } := by
  cases s
  cases t
  simpa [backlightFrame] using h

theorem backlightFrame_receiveWrite (s : State) : backlightFrame (receiveWrite s).state = backlightFrame s := by
  unfold receiveWrite
  split <;> simp [backlightFrame]

theorem backlightFrame_delay (n : Micros) (s : State) : backlightFrame (delay n s).state = backlightFrame s := by
  unfold delay receiveDelay
  split <;> rfl

theorem backlightFrame_writeThenDelay (n : Micros) (s : State) :
    backlightFrame ((receiveWrite (issueWrite s)).andThen (delay n)).state = backlightFrame s :=
  Flow.rel_andThen (R := fun u v => backlightFrame v = backlightFrame u) (fun _ _ _ h g => g.trans h)
    (backlightFrame_receiveWrite (issueWrite s)) fun t _ => backlightFrame_delay n t

theorem backlightBody_framed (s : State) : FramedBy backlightFrame s (backlightBody s) :=
  FramedBy.settle
    ⟨backlightFrame_writeThenDelay s.prm.tSettle (backlightWord s),
      (Kept.acrossCalls.writeThenDelay s.prm.tSettle (backlightWord s)).bus⟩
    (fun _ => ⟨rfl, rfl⟩) fun _ => ⟨rfl, rfl⟩

end Sys2Proof.Machine

open Sys2Proof Sys2Proof.Machine

/-- Settles O38: BACKLIGHT after it is accepted. -/
theorem frameOfBacklight : Obligations.FrameOfBacklight := by
  intro on a1 a2 s t ht
  injection ht with ht
  obtain ⟨⟨hframe, hbus⟩, hinvalid⟩ :=
    (backlightBody_framed (accept opBacklight on a1 a2 s)).checked fun _ => rfl
  rw [ht] at hframe hbus hinvalid
  exact ⟨eq_of_backlightFrame_eq hframe, hinvalid, hbus⟩
end

section
/-! PROOFS. The backlight's level in every word written (O42): an instruction writes no word that its `successEvents`
do not name, and those carry the level of `BL_ON` as the instruction leaves it. -/

namespace Sys2Proof.Machine

/-! ### `BL_ON` -/

/-- `BL_ON` as an instruction leaves it on a valid map (R263). -/
def backlightAfter (s : State) : Instr → Bool
  | .backlight on _ _ => on.getLsbD 0
  | _ => s.blOn

theorem backlightAfter_eq_blOn {i : Instr} (h : ∀ on a1 a2, i ≠ .backlight on a1 a2) (s : State) :
    backlightAfter s i = s.blOn := by
  cases i
  case backlight => exact absurd rfl (h _ _ _)
  all_goals rfl

theorem seqAlone_blOn (r : SeqRow) (s : State) : (seqAlone r s).blOn = s.blOn :=
  (congrArg State.blOn (seqAlone_framed r s).1.1 :)

theorem layerCmd_blOn (byte : Byte) (s : State) : (layerCmd byte s).blOn = s.blOn :=
  (congrArg State.blOn
    (frame_of_accepted_byte opCmd false byte 0#8 0#8 (s := layerIssue (cmdWord opCmd byte 0#8 0#8) s) rfl).1 :)

theorem layerWait_blOn (s : State) : (layerWait s).blOn = s.blOn := by
  unfold layerWait
  split <;> rfl

theorem backlightBody_blOn (s : State) : (backlightBody s).blOn = s.a0.getLsbD 0 := by
  have k := Kept.acrossCalls.writeThenDelay s.prm.tSettle (backlightWord s)
  unfold backlightBody
  generalize (receiveWrite (issueWrite (backlightWord s))).andThen (delay s.prm.tSettle) = f at k
  cases f <;> exact k.blOn

/-- The frames of the other instructions have `BL_ON` in them. -/
theorem blOn_of_exec {i : Instr} {s t : State} (hm : s.mapValid = true) (h : exec i s = .next t) :
    t.blOn = backlightAfter s i := by
  cases i
  case init c r f => exact (congrArg State.blOn (frameOfInit c r f s t h).1 :)
  case cmd b a1 a2 => exact (congrArg State.blOn (frameOfCmdAndData b a1 a2 _ s t (.inl rfl) h).1 :)
  case data b a1 a2 => exact (congrArg State.blOn (frameOfCmdAndData b a1 a2 _ s t (.inr rfl) h).1 :)
  case rdbf a0 a1 a2 => exact (congrArg State.blOn (frameOfReads a0 a1 a2 _ s t (.inl rfl) h).1 :)
  case rdac a0 a1 a2 => exact (congrArg State.blOn (frameOfReads a0 a1 a2 _ s t (.inr rfl) h).1 :)
  case backlight on a1 a2 =>
    rw [exec_backlight_valid hm] at h
    cases h
    exact backlightBody_blOn (accept opBacklight on a1 a2 s)
  all_goals cases h
  case kProbe | kSwitch4 | kFuncset | kDisplayOff | kClear | kEntryLtr | kDisplayOn => exact seqAlone_blOn _ s
  case clear | home => exact (layerWait_blOn _).trans (layerCmd_blOn _ s)
  case displayctl d c b => exact layerCmd_blOn _ (displayFlags d c b s)
  case entrymode ltr auto => exact layerCmd_blOn _ (entryFlags ltr auto s)
  case setddram | shift | setcgram => exact layerCmd_blOn _ s

/-! ### The words -/

theorem backlightThroughout_delays (pm : PinMap) (level : Bool) (l : List Micros) :
    BacklightThroughout pm level (l.map Event.delay) := by simp [BacklightThroughout]

section
variable {s : State} (hp : PinMap.IsPerm s.pm)
include hp

theorem backlightThroughout_readEvents (len : Bool) :
    BacklightThroughout s.pm (backlightLevel s) (readEvents s len) := by
  have hphase : BacklightThroughout s.pm (backlightLevel s) (readPhaseEvents s) := by
    unfold readPhaseEvents
    split <;> simp [BacklightThroughout, atSlot_encWord_backlight hp]
  cases len
  · exact hphase
  · exact backlightThroughout_append.2 ⟨hphase, hphase⟩

theorem backlightThroughout_backlightEvents (on : Byte) :
    BacklightThroughout s.pm (backlightLevel { s with blOn := on.getLsbD 0 }) (backlightEvents s on) := by
  intro w hw
  obtain rfl : w = blMask { s with blOn := on.getLsbD 0 } := by simpa [backlightEvents] using hw
  exact (atSlot_blMask { s with blOn := on.getLsbD 0 } hp slotBL).trans (by simp)

theorem backlightThroughout_successEvents (i : Instr) :
    BacklightThroughout s.pm (backlightLevel { s with blOn := backlightAfter s i }) (successEvents s i) := by
  cases i
  case init => exact backlightThroughout_initEvents hp _ _
  case backlight => exact backlightThroughout_backlightEvents hp _
  case rdbf | rdac => exact backlightThroughout_readEvents hp _
  case kProbe =>
    exact backlightThroughout_append.2 ⟨backlightThroughout_nibbleEvents hp _ _, backlightThroughout_delays _ _ _⟩
  case kSwitch4 => exact backlightThroughout_nibbleEvents hp _ _
  case kClear =>
    exact backlightThroughout_append.2 ⟨backlightThroughout_byteEvents hp _ _, backlightThroughout_delay _ _ _⟩
  all_goals exact backlightThroughout_byteEvents hp _ _

end

end Sys2Proof.Machine

open Sys2Proof Sys2Proof.Machine

/-- Settles O42: the words written are among those of the instruction's events, and these carry its level. -/
theorem backlightLevelInEveryWord : Obligations.BacklightLevelInEveryWord := by
  intro i s t h hm ht
  have hp := h.mapIsPerm hm
  have hbl := blOn_of_exec hm ht
  obtain ⟨made, htr, hmade⟩ := (performs_exec hp hm i ht).written
  refine ⟨⟨made, htr, fun w hw => ?_⟩, fun hi => hbl.trans (backlightAfter_eq_blOn hi s)⟩
  rw [hbl]
  exact (backlightThroughout_successEvents hp i w (hmade w hw)).trans (backlightLevel_eq_xor _)
end

section
/-! PROOFS. The layer's rows when every call succeeds (O25 to O27): the shadow flags, one CMD, and the wait of CLEAR
and HOME. -/

namespace Sys2Proof.Machine

/-- One CMD of the layer, from a ready state (R270). -/
theorem layerCmd_ok {s : State} (hr : Ready s) (hk : CallsSucceed 4 s) (hd : DelaysEnd s) (byte : Byte) :
    layerCmd byte s = Expect.layerSent byte s := by
  refine (accepted_byteBody (s := layerIssue (cmdWord opCmd byte 0#8 0#8) s) ⟨{ hr.inv with }, hr.idle, hr.map⟩
    (hk.later 0 rfl (by simp)) hd opCmd false byte 0#8 0#8).trans ?_
  simp only [Expect.layerSent, Expect.sent, takeAnswers_eq]
  rfl

/-- The CMD is answered OK, so the layer makes its wait (R272, R273). -/
theorem layerWait_layerCmd_ok {s : State} (hr : Ready s) (hk : CallsSucceed 4 s) (hd : DelaysEnd s) (byte : Byte) :
    layerWait (layerCmd byte s) =
      { Expect.layerSent byte s with
        layerOut := s.layerOut ++
          [LayerEvent.issue (cmdWord opCmd byte 0#8 0#8), .wait s.prm.tClear.toNat] } := by
  have hok : succeeded (Expect.layerSent byte s) = true := by
    simp [succeeded, Expect.layerSent, Expect.sent, takeAnswers_eq, hr.idle]
  rw [layerCmd_ok hr hk hd, layerWait, if_pos hok]
  simp only [Expect.layerSent, Expect.sent, takeAnswers_eq, List.append_assoc, List.singleton_append]
  rfl

/-- A CMD's events do not depend on the shadow flags, and it keeps them (R271). -/
theorem layerSent_displayFlags (byte : Byte) (d c b : Bool) (s : State) :
    Expect.layerSent byte (displayFlags d c b s) = displayFlags d c b (Expect.layerSent byte s) := by
  simp only [Expect.layerSent, Expect.sent, takeAnswers_eq]
  rfl

theorem layerSent_entryFlags (byte : Byte) (ltr auto : Bool) (s : State) :
    Expect.layerSent byte (entryFlags ltr auto s) = entryFlags ltr auto (Expect.layerSent byte s) := by
  simp only [Expect.layerSent, Expect.sent, takeAnswers_eq]
  rfl

/-! ### The bytes as R275 to R279 write them -/

theorem setddramByte_eq_or : ∀ a : BitVec 7, setddramByte a = 0x80#8 ||| (0#1 ++ a) := by decide
theorem setcgramByte_eq_or : ∀ g : BitVec 6, setcgramByte g = 0x40#8 ||| (0#2 ++ g) := by decide
theorem shiftByte_eq_ite : ∀ r : Bool, shiftByte r = if r then 0x1C#8 else 0x18#8 := by decide
theorem displayctlByte_eq_or : ∀ d c b : Bool, displayctlByte d c b =
    0x08#8 ||| (if d then 4#8 else 0#8) ||| (if c then 2#8 else 0#8) ||| (if b then 1#8 else 0#8) := by decide
theorem entrymodeByte_eq_or : ∀ l a : Bool, entrymodeByte l a =
    0x04#8 ||| (if l then 2#8 else 0#8) ||| (if a then 1#8 else 0#8) := by decide

end Sys2Proof.Machine

open Sys2Proof Sys2Proof.Machine

/-- Settles O25: each is a CMD and the wait after it. -/
theorem clearAndHomeSendAndWait : Obligations.ClearAndHomeSendAndWait := fun _ hr hk hd =>
  ⟨congrArg Host.Outcome.next (layerWait_layerCmd_ok hr hk hd 0x01#8),
    congrArg Host.Outcome.next (layerWait_layerCmd_ok hr hk hd 0x02#8)⟩

/-- Settles O26: each is one CMD. -/
theorem addressAndShiftRowsSend : Obligations.AddressAndShiftRowsSend := by
  intro a g r s hr hk hd
  rw [← setddramByte_eq_or, ← setcgramByte_eq_or, ← shiftByte_eq_ite]
  have hcmd (byte : Byte) : layerCmd byte s = Expect.layerSent byte s := layerCmd_ok hr hk hd byte
  exact ⟨congrArg Host.Outcome.next (hcmd _), congrArg Host.Outcome.next (hcmd _),
    congrArg Host.Outcome.next (hcmd _)⟩

/-- Settles O27: the flags of the row, those of the other row as they were, and one CMD. -/
theorem flagRowsWriteAndSend : Obligations.FlagRowsWriteAndSend := by
  intro d c b i a s hr hk hd
  rw [← displayctlByte_eq_or, ← entrymodeByte_eq_or]
  have hdisplay := layerCmd_ok (s := displayFlags d c b s) ⟨{ hr.inv with }, hr.idle, hr.map⟩
    (hk.later 0 rfl (by simp)) hd (displayctlByte d c b)
  have hentry := layerCmd_ok (s := entryFlags i a s) ⟨{ hr.inv with }, hr.idle, hr.map⟩
    (hk.later 0 rfl (by simp)) hd (entrymodeByte i a)
  exact ⟨congrArg Host.Outcome.next (hdisplay.trans (layerSent_displayFlags ..)),
    congrArg Host.Outcome.next (hentry.trans (layerSent_entryFlags ..))⟩
end

section
/-! PROOFS. SETCURSOR by its clamped row (O28). -/

namespace Sys2Proof.Machine

/-- A clamped position whose row has a base is one SETDDRAM of its address (R274, R275). -/
theorem runCall_setCursor_of_rowBase {col row base : Byte} {s : State}
    (h : rowBase s.cols (clampIndex row s.rows) = some base) :
    runCall (.setCursor col row) s = exec (.setddram ((base + clampIndex col s.cols).extractLsb' 0 7)) s := by
  have ha : ddramAddress s.cols (clampIndex col s.cols) (clampIndex row s.rows) =
      some ((base + clampIndex col s.cols).extractLsb' 0 7) := by rw [ddramAddress, h, Option.map_some]
  simp only [runCall, ha]
  rfl

/-- From row 4 on no base is defined, and the call is refused by name (log 18). -/
theorem runCall_setCursor_of_no_rowBase {row : Byte} (col : Byte) {s : State}
    (h : rowBase s.cols (clampIndex row s.rows) = none) :
    runCall (.setCursor col row) s = .refused (.rowUndefined (clampIndex row s.rows)) := by
  have ha : ddramAddress s.cols (clampIndex col s.cols) (clampIndex row s.rows) = none := by
    rw [ddramAddress, h, Option.map_none]
  simp only [runCall, ha]

theorem rowBase_eq_none {row : Byte} (cols : Byte) (h : 4#8 ≤ row) : rowBase cols row = none := by
  have h4 : 4 ≤ row.toNat := h
  unfold rowBase
  split
  case h_5 => rfl
  all_goals omega

end Sys2Proof.Machine

open Sys2Proof Sys2Proof.Machine

/-- Settles O28: rows 0 to 3 have their base, and no row from 4 on has one. -/
theorem setCursorClampsAndAddresses : Obligations.SetCursorClampsAndAddresses := by
  intro col row s r c
  have at_row {k base : Byte} (hk : rowBase s.cols k = some base) (h : r = k) :
      runCall (.setCursor col row) s = exec (.setddram ((base + c).extractLsb' 0 7)) s :=
    runCall_setCursor_of_rowBase ((congrArg (rowBase s.cols) h).trans hk)
  refine ⟨fun h => ?_, at_row rfl, at_row rfl, at_row rfl,
    fun h => runCall_setCursor_of_no_rowBase col (rowBase_eq_none s.cols h)⟩
  exact (at_row rfl h).trans (by rw [BitVec.zero_add])
end

section
/-! PROOFS. The frame of the layer's rows, whatever the collaborators answer (O41): one CMD with the layer's own
output, after the shadow flags of the row. -/

namespace Sys2Proof.Machine

/-- The state with everything blanked that the layer's CMD may write: what CMD may, and the layer's output (R270). -/
def layerFrame (s : State) : State := { byteFrame s with layerOut := [] }

theorem layerCmd_framed (byte : Byte) (s : State) :
    FramedBy layerFrame s (layerCmd byte s) ∧ (s.mapValid = false → (layerCmd byte s).bus = s.bus) := by
  obtain ⟨hframe, hinvalid, hbus⟩ := frame_of_accepted_byte opCmd false byte 0#8 0#8
    (s := layerIssue (cmdWord opCmd byte 0#8 0#8) s) rfl
  exact ⟨⟨congrArg (fun u => { u with layerOut := [] }) hframe, hbus⟩, hinvalid⟩

theorem layerWait_same (s : State) : layerFrame (layerWait s) = layerFrame s ∧ (layerWait s).bus = s.bus := by
  unfold layerWait
  split <;> exact ⟨rfl, rfl⟩

/-- The shadow flags of a row's byte written, as the row does before it sends (R271, R276, R277). -/
def shadowWritten (s : State) : Instr → State
  | .displayctl d c b => displayFlags d c b s
  | .entrymode ltr auto => entryFlags ltr auto s
  | _ => s

/-- No instruction's byte has a shadow flag but those five. -/
theorem shadowWritten_eq (s : State) (i : Instr) :
    ∃ d c b l a : Bool, shadowWritten s i = displayFlags d c b (entryFlags l a s) := by
  cases i
  case displayctl d c b => exact ⟨d, c, b, s.entryLtr, s.autoscroll, rfl⟩
  case entrymode l a => exact ⟨s.dispOn, s.curOn, s.blinkOn, l, a, rfl⟩
  all_goals exact ⟨s.dispOn, s.curOn, s.blinkOn, s.entryLtr, s.autoscroll, rfl⟩

/-- The frame of a row of the layer, and the latches of the other devices on the bus. -/
theorem frame_of_layerRow {i : Instr} {s t : State} (hi : Expect.IsLayerRow i) (ht : exec i s = .next t) :
    layerFrame t = layerFrame (shadowWritten s i) ∧ (s.mapValid = false → t.bus = s.bus) ∧
      ∀ a : Nat, a ≠ s.devAddr.toNat → Memory.read t.bus a = Memory.read s.bus a := by
  obtain ⟨v, he⟩ := hi
  obtain ⟨hcmd, hinvalid⟩ := layerCmd_framed v (shadowWritten s i)
  have hsame := layerWait_same (layerCmd v (shadowWritten s i))
  have hwait := hcmd.of_same hsame
  cases i <;> cases he <;> cases ht
  case clear | home => exact ⟨hwait.1, fun hm => hsame.2.trans (hinvalid hm), hwait.2⟩
  case setddram | displayctl | entrymode | shift | setcgram => exact ⟨hcmd.1, hinvalid, hcmd.2⟩

/-- States with the same frame, but for the shadow flags, differ in what the layer's rows may write alone. -/
theorem eq_of_layerFrame_eq {s t : State} {d c b l a : Bool}
    (h : layerFrame t = layerFrame (displayFlags d c b (entryFlags l a s))) :
    t = { s with
      op := t.op, a0 := t.a0, a1 := t.a1, a2 := t.a2, val := t.val, rs := t.rs, rw := t.rw,
      len := t.len, word := t.word, dispOn := t.dispOn, curOn := t.curOn, blinkOn := t.blinkOn,
      entryLtr := t.entryLtr, autoscroll := t.autoscroll, status := t.status, rdata := t.rdata,
      top := t.top, npd := t.npd, rspValid := t.rspValid, req := t.req, bus := t.bus, ctl := t.ctl,
      tpIn := t.tpIn, dlIn := t.dlIn, trace := t.trace, layerOut := t.layerOut, free := t.free } := by
  cases s
  cases t
  simp only [layerFrame, byteFrame, displayFlags, entryFlags, State.mk.injEq] at h ⊢
  simp [h]

end Sys2Proof.Machine

open Sys2Proof Sys2Proof.Machine

/-- Settles O41: a row is framed by the state its shadow flags are written in. -/
theorem frameOfLayerRows : Obligations.FrameOfLayerRows := by
  intro a g d c b i s t hi ht
  have hlayer : Expect.IsLayerRow i := by
    simp only [List.mem_cons, List.not_mem_nil, or_false] at hi
    rcases hi with rfl | rfl | rfl | rfl | rfl | rfl | rfl <;> exact ⟨_, rfl⟩
  obtain ⟨hframe, hlatches⟩ := frame_of_layerRow hlayer ht
  obtain ⟨d', c', b', l', a', hshadow⟩ := shadowWritten_eq s i
  have hflags : t.dispOn = (shadowWritten s i).dispOn ∧ t.curOn = (shadowWritten s i).curOn ∧
      t.blinkOn = (shadowWritten s i).blinkOn ∧ t.entryLtr = (shadowWritten s i).entryLtr ∧
      t.autoscroll = (shadowWritten s i).autoscroll :=
    ⟨(congrArg State.dispOn hframe :), (congrArg State.curOn hframe :), (congrArg State.blinkOn hframe :),
      (congrArg State.entryLtr hframe :), (congrArg State.autoscroll hframe :)⟩
  refine ⟨eq_of_layerFrame_eq (hshadow ▸ hframe), ?_, ?_, ?_, hlatches⟩
  · intro h
    simp only [List.mem_cons, List.not_mem_nil, or_false] at h
    rcases h with rfl | rfl | rfl | rfl | rfl <;> exact hflags
  · rintro rfl
    exact hflags
  · rintro rfl
    obtain ⟨hdisp, hcur, hblink, hltr, hauto⟩ := hflags
    exact ⟨hltr, hauto, hdisp, hcur, hblink⟩
end

section
/-! PROOFS. Raising an error (O34), and the reserved opcodes (O33). -/

namespace Sys2Proof.Machine

/-- A command accepted and ended at once by an error leaves an idle framer at rest as it was, but for the operand
and response latches (R53, R310). -/
theorem raise_accept {s : State} (ht : s.top = .idle) (hr : AtRest s) (x : Status) (op : BitVec 4)
    (a0 a1 a2 : Byte) :
    raise x (accept op a0 a1 a2 s) =
      { s with
        op := op
        a0 := a0
        a1 := a1
        a2 := a2
        status := x
        rdata := 0#8
        rspValid := true
        trace := s.trace ++ [.rsp x 0#8] } := by
  apply State.ext
  case top => exact ht.symm
  case npd => exact hr.1.symm
  case req => exact hr.2.symm
  all_goals rfl

/-- R98: a word whose opcode is none of R96 decodes to no instruction. -/
theorem fetchStep_reserved {w : CmdWord} (h : cmdOp w = 0#4 ∨ 7#4 ≤ cmdOp w) (s : State) :
    fetchStep (.port w) s = .next (reservedOp w s) := by
  have hdec : decode (.port w) = .error (.reservedOpcode (cmdOp w)) := portInstr_reserved h _ _ _
  rw [fetchStep, hdec]
  rfl

end Sys2Proof.Machine

open Sys2Proof Sys2Proof.Machine

/-- Settles O34: the free values of log 11 are the shadow flags' witnesses. -/
theorem raiseWritesTheResponseAlone : Obligations.RaiseWritesTheResponseAlone :=
  fun _ _ => ⟨rfl, _, _, _, _, _, _, rfl⟩

/-- Settles O33: the word decodes to no instruction, so on a valid map it is accepted and raises `ILLEGAL_OP`. -/
theorem reservedOpcodeIsIllegal : Obligations.ReservedOpcodeIsIllegal := by
  intro w s hr h
  have hraise : reservedOp w s = raise .illegalOp (accept (cmdOp w) (cmdA0 w) (cmdA1 w) (cmdA2 w) s) :=
    checked_valid _ (by exact hr.map)
  rw [fetchStep_reserved h, hraise, raise_accept hr.idle (hr.inv.idleAtRest hr.idle)]
  rfl
end

section
/-! PROOFS. The usability condition (O47, O48): it is told by `MAP_VALID` and `INIT_OK`, which the frame of every
instruction but INIT and the sequencer's rows holds fixed; these two end as their flow does. -/

namespace Sys2Proof.Machine

theorem condition_eq_ready {s : State} (hm : s.mapValid = true) (hi : s.initOk = true) : condition s = .ready := by
  rw [condition, if_pos hm, if_pos hi]

theorem condition_eq_uninitialised {s : State} (hm : s.mapValid = true) (hi : s.initOk = false) :
    condition s = .uninitialised := by
  rw [condition, if_pos hm, hi]
  rfl

/-- An operation of the command port but INIT: its frame has both registers in it. -/
theorem condition_of_port {i : Instr} {w : CmdWord} {s t : State} (he : encode i = .port w)
    (hi : ∀ c r f, i ≠ .init c r f) (ht : exec i s = .next t) : condition t = condition s := by
  cases i <;> cases he
  case init c r f => exact absurd rfl (hi c r f)
  case cmd b a1 a2 => exact (congrArg condition (frameOfCmdAndData b a1 a2 _ s t (.inl rfl) ht).1 :)
  case data b a1 a2 => exact (congrArg condition (frameOfCmdAndData b a1 a2 _ s t (.inr rfl) ht).1 :)
  case backlight on a1 a2 => exact (congrArg condition (frameOfBacklight on a1 a2 s t ht).1 :)
  case rdbf a0 a1 a2 => exact (congrArg condition (frameOfReads a0 a1 a2 _ s t (.inl rfl) ht).1 :)
  case rdac a0 a1 a2 => exact (congrArg condition (frameOfReads a0 a1 a2 _ s t (.inr rfl) ht).1 :)

/-- A row of the layer: its frame, and the shadow flags it writes first, have both registers in them. -/
theorem condition_of_layerRow {i : Instr} {s t : State} (hi : Expect.IsLayerRow i) (ht : exec i s = .next t) :
    condition t = condition s := by
  obtain ⟨hframe, -⟩ := frame_of_layerRow hi ht
  obtain ⟨d, c, b, l, a, hshadow⟩ := shadowWritten_eq s i
  rw [hshadow] at hframe
  exact (congrArg condition hframe :)

/-- A row of the sequencer run alone (log 1): refused on an invalid map, or ended as its transaction ended. -/
theorem seqAlone_condition (r : SeqRow) (s : State) :
    ((seqAlone r s).rspValid = false ∧ condition (seqAlone r s) = condition s) ∨
    (s.mapValid = false ∧ (seqAlone r s).status = .configError ∧ condition (seqAlone r s) = condition s) ∨
    (s.mapValid = true ∧ (seqAlone r s).rspValid = true ∧ (seqAlone r s).top = .idle ∧
      (seqAlone r s).status = .transportError ∧ condition (seqAlone r s) = .uninitialised) := by
  cases hm : s.mapValid with
  | false =>
    have hrow : seqAlone r s = raise .configError (rowRunning s) := checked_invalid _ (by exact hm)
    rw [hrow]
    exact .inr (.inl ⟨rfl, rfl, rfl⟩)
  | true =>
    have hrow : seqAlone r s =
        ((seqSend r (rowRunning s)).andThen fun u => .going { u with top := s.top }).settle raiseInitFailed :=
      checked_valid (s := rowRunning s) _ hm
    have k := Kept.seqSend r (rowRunning s)
    rw [hrow]
    cases hf : seqSend r (rowRunning s) <;> rw [hf] at k
    case going u => exact .inl ⟨k.rspValid, condition_congr k.mapValid k.initOk⟩
    case aborted u => exact .inr (.inr ⟨rfl, rfl, rfl, rfl, condition_eq_uninitialised (k.mapValid.trans hm) rfl⟩)
    case waiting u => exact .inl ⟨k.rspValid, condition_congr k.mapValid k.initOk⟩

/-- INIT after the map check: `INIT_OK` is cleared first and set by the last step alone (R202, R208, R211). -/
theorem initBody_condition {s : State} (hb : s.top = .busy) (hm : s.mapValid = true) :
    ((initBody s).top = .idle ∧ (initBody s).status = .ok ∧ condition (initBody s) = .ready) ∨
    ((initBody s).top = .idle ∧ (initBody s).status = .transportError ∧ condition (initBody s) = .uninitialised) ∨
    ((initBody s).top = .busy ∧ condition (initBody s) = .uninitialised) := by
  have k := Kept.seqRun 10 (initStart s)
  unfold initBody
  cases hf : seqRun 10 (initStart s) <;> rw [hf] at k
  case going u => exact .inl ⟨rfl, rfl, condition_eq_ready (k.mapValid.trans hm) rfl⟩
  case aborted u => exact .inr (.inl ⟨rfl, rfl, condition_eq_uninitialised (k.mapValid.trans hm) rfl⟩)
  case waiting u => exact .inr (.inr ⟨k.top.trans hb, condition_eq_uninitialised (k.mapValid.trans hm) k.initOk⟩)

end Sys2Proof.Machine

open Sys2Proof Sys2Proof.Machine

/-- Settles O47, by the place of the instruction. -/
theorem conditionChangesInInitAndFailedSequencerRows :
    Obligations.ConditionChangesInInitAndFailedSequencerRows := by
  intro i s t ht
  refine ⟨fun hinit hseq => ?_, ?_⟩
  · cases he : encode i with
    | port w => exact condition_of_port he hinit ht
    | sequencer len v => exact absurd ⟨len, v, he⟩ hseq
    | layer v => exact condition_of_layerRow ⟨v, he⟩ ht
  · rintro ⟨len, v, he⟩
    obtain ⟨r, hexec, -⟩ := exec_sequencerRow he s
    obtain rfl : seqAlone r s = t := by rw [hexec] at ht; injection ht
    exact seqAlone_condition r s

/-- Settles O48: INIT on a valid map runs its body. -/
theorem initDecidesReadiness : Obligations.InitDecidesReadiness := by
  intro c r f s t hm ht
  have hinit : exec (.init c r f) s = .next (initBody (accept opInit c r f s)) :=
    congrArg Host.Outcome.next (checked_valid _ (by exact hm))
  obtain rfl : initBody (accept opInit c r f s) = t := by rw [hinit] at ht; injection ht
  exact initBody_condition rfl hm
end
